-- ==== Sys2Proof/Word.lean ====
section
/-! DEFINITION. The widths of the block's values (00_scope.md R8, R9) and the two baud rates (R6). -/

namespace Sys2Proof

/-- A byte: 8 bits, unsigned unless a rule says otherwise (00_scope.md R8). -/
abbrev Byte := BitVec 8

/-- A frame id: 6 bits, 0 to 63 (00_scope.md R6 `FID_BITS`, R8). -/
abbrev Fid := BitVec 6

/-- The raw temperature: a 16-bit pattern read as two's complement, `BitVec.toInt` (00_scope.md R8, R10 `sext_16`). -/
abbrev Raw := BitVec 16

/-- The One-Wire transport's two baud rates (00_scope.md R6, 10_state.md R41). -/
inductive Baud where
  | b9600     -- OW_BAUD_RESET
  | b115200   -- OW_BAUD_BIT
  deriving DecidableEq, Repr, Inhabited

end Sys2Proof
end

