-- ==== Sys2Proof/Config.lean ====
section
/-! DEFINITION. The block's fixed values (00_scope.md R6), its open parameters (R7) and the free values the model draws.
An `opaque` constant has no body: nothing can be proved of its value, so a theorem holds for every value of it. -/

namespace Sys2Proof.Config

/-! ### Fixed values (00_scope.md R6) -/

/-- `LIN_BREAK`: the byte the scanner takes as a break. -/
def linBreak : Byte := 0x00
/-- `LIN_SYNC`: the byte that must follow a break. -/
def linSync : Byte := 0x55
/-- `MAX_DATA`: the largest number of data bytes in a frame. -/
def maxData : Nat := 8
/-- `OW_RESET_CHAR`: the character that makes the reset pulse at 9600 baud. -/
def owResetChar : Byte := 0xF0
/-- `OW_SLOT1_CHAR`: the character of a logic-1 or read slot. -/
def owSlot1Char : Byte := 0xFF
/-- `OW_SLOT0_CHAR`: the character of a logic-0 slot. -/
def owSlot0Char : Byte := 0x00
/-- `DS_CMD_SKIP_ROM`: "address all". -/
def dsSkipRom : Byte := 0xCC
/-- `DS_CMD_CONVERT`: "start conversion". -/
def dsConvert : Byte := 0x44
/-- `DS_CMD_READ_SP`: "read scratchpad". -/
def dsReadSp : Byte := 0xBE
/-- `SP_LEN`: the scratchpad's length in bytes. -/
def spLen : Nat := 9
/-- `CRC8_POLY_REFL`: the reflected CRC8 polynomial. -/
def crc8Poly : Byte := 0x8C
/-- `DS_CONV_DELAY_MS`: the delay between conversion start and scratchpad read. -/
def convDelayMs : Nat := 1000

/-! ### Open parameters (00_scope.md R7) -/

/-- `OW_BAUD_INIT`, one of the two rates: the One-Wire transport's rate at reset (R7, D7; log entry 10). -/
opaque owBaudInit : Baud

/-- One less than `LIN_BAUD`. -/
opaque linBaudPred : Nat

/-- `LIN_BAUD`, a positive integer that no rule reads (R7, D28; log entry 10). -/
def linBaud : Nat := linBaudPred + 1

/-! ### Free values -/

/-- `HANDLER`, call 1: the answer drawn as the LIN agent's n-th free value for a frame id, where the state lists no answer
(42_lin_engine.md R230, D12; log entry 7). -/
opaque buildResponse : Nat → Fid → Option (List Byte)

/-- `HANDLER`, call 2, in the same way (R230, D12; log entry 7). -/
opaque expectedCommandLength : Nat → Fid → Option Nat

/-- Whether the `LinTx` drawn as the LIN agent's n-th free value completes, where the state lists no outcome
(00_scope.md R13, 60_exceptions.md R418; log entry 8). -/
opaque linTxCompletes : Nat → Bool

/-- Whether the `OwTx` drawn as the OW agent's n-th free value completes, in the same way (log entry 8). -/
opaque owTxCompletes : Nat → Bool

/-- Whether the LIN agent (else the OW agent) moves at the n-th free choice of a turn (20_memory.md R82; log entry 9). -/
opaque linMoves : Nat → Bool

end Sys2Proof.Config
end

