-- ==== Sys2Proof/Syntax.lean ====
section
/-! DEFINITION. The rows of spec/opcode_table.json as one inductive, and what stands on the block's interfaces to select them.
The block decodes no instruction words (30_encoding.md): a row is a host request, a LIN engine transition, a byte of a LIN
frame, a One-Wire character or slot, or a DS18B20 command byte. Arguments are raw; `WellFormed` checks their types. -/

namespace Sys2Proof

/-- One constructor per row of spec/opcode_table.json, in the table's order (log entry 1). -/
inductive Instr where
  -- HOST_REQ, functional units (30_encoding.md R111)
  | pidParity (id : Byte)
  | pidEncode (id : Byte)
  | pidValidate (b : Byte)
  | csumAdd (s b : Byte)
  | csumGen (pid : Byte) (data : List Byte)
  | csumCheck (pid : Byte) (data : List Byte) (c : Byte)
  | crc8Update (crc b : Byte)
  | crc8Check (bytes : List Byte)
  | dsDecode (sp : List Byte)
  -- HOST_REQ, operations of the OW agent (R111)
  | owReset
  | owWrb (x : Byte)
  | owRb
  | owWb (x : Byte)
  | dsStart
  | dsRawTemp
  -- INTERNAL: one slot, the bit written and the readback (43_onewire.md R302)
  | owSlot (bit : Bool) (r : Byte)
  -- LIN_STEP, with the received byte where one is read (R103)
  | engBreakHit (b : Byte)
  | engBreakSkip (b : Byte)
  | engSyncOk (b : Byte)
  | engSyncBad (b : Byte)
  | engPidOk (b : Byte)
  | engPidBad (b : Byte)
  | engRespond
  | engCmdData (b : Byte)
  | engCmdCkOk (b : Byte)
  | engCmdCkBad (b : Byte)
  | engDrop
  -- LIN_BYTE (R100 to R102); `p` is `{P1, P0}`
  | linBreak
  | linSync
  | linPid (p : BitVec 2) (id : Fid)
  | linData (d : Byte)
  | linChecksum (c : Byte)
  -- OW_CHAR (R105)
  | owCharReset
  | owCharSlot1
  | owCharSlot0
  -- DS_CMD (R108)
  | dsCmdSkipRom
  | dsCmdConvert
  | dsCmdReadSp
  deriving DecidableEq, Repr

/-- The table's formats. -/
inductive Format where
  | hostReq | internal | linStep | linByte | owChar | dsCmd
  deriving DecidableEq, Repr

/-- The format the table gives each row. -/
def Instr.format : Instr → Format
  | .pidParity _ | .pidEncode _ | .pidValidate _ | .csumAdd _ _ | .csumGen _ _ | .csumCheck _ _ _ | .crc8Update _ _
  | .crc8Check _ | .dsDecode _ | .owReset | .owWrb _ | .owRb | .owWb _ | .dsStart | .dsRawTemp => .hostReq
  | .owSlot _ _ => .internal
  | .engBreakHit _ | .engBreakSkip _ | .engSyncOk _ | .engSyncBad _ | .engPidOk _ | .engPidBad _ | .engRespond
  | .engCmdData _ | .engCmdCkOk _ | .engCmdCkBad _ | .engDrop => .linStep
  | .linBreak | .linSync | .linPid _ _ | .linData _ | .linChecksum _ => .linByte
  | .owCharReset | .owCharSlot1 | .owCharSlot0 => .owChar
  | .dsCmdSkipRom | .dsCmdConvert | .dsCmdReadSp => .dsCmd

/-- The place of a byte in a LIN frame (30_encoding.md R100). -/
inductive LinField where
  | break | sync | pid | data | checksum
  deriving DecidableEq, Repr

/-- What selects a LIN engine transition beside the received byte (30_encoding.md R103): the engine state, in RECV_CMD
with which byte is awaited, and there the checksum the frame should have. -/
inductive LinSel where
  | scanBreak | scanSync | readPid | respond | recvData | recvCheck (expected : Byte) | drop
  deriving DecidableEq, Repr

/-- What stands on one of the block's interfaces: the spec's encodings (30_encoding.md R100 to R112), which the decoder reads.
A host request is a selector with its argument bytes (log entry 2); the rest is log entry 3. -/
inductive Code where
  | host (sel : Byte) (args : List Byte)
  | slot (c r : Byte)
  | linStep (sel : LinSel) (b : Option Byte)
  | linByte (f : LinField) (b : Byte)
  | owChar (baud : Baud) (c : Byte)
  | dsCmd (b : Byte)
  deriving DecidableEq, Repr

/-- The format whose rows a code can select. -/
def Code.format : Code → Format
  | .host _ _ => .hostReq
  | .slot _ _ => .internal
  | .linStep _ _ => .linStep
  | .linByte _ _ => .linByte
  | .owChar _ _ => .owChar
  | .dsCmd _ => .dsCmd

/-- The host operations of the OW agent (30_encoding.md R111): the values of `OW.OP`. -/
inductive OwOp where
  | reset | wrb | rb | wb | start | rawTemp
  deriving DecidableEq, Repr

/-- The DS18B20 commands the block sends (30_encoding.md R108). -/
inductive DsCmd where
  | skipRom | convert | readSp
  deriving DecidableEq, Repr

end Sys2Proof
end

