-- ==== Sys2Proof/Machine/Operands.lean ====
section
/-! DEFINITION. Operand assembly (30_encoding.md R102, R105, R106, R108, R111, R114): how each composite value is made from its
parts. -/

namespace Sys2Proof.Machine

/-- The frame id of a PID byte: bits 5..0 (30_encoding.md R102, R114). -/
def pidId (b : Byte) : Fid := b.extractLsb' 0 6

/-- The parity field `{P1, P0}` of a PID byte: bits 7..6 (30_encoding.md R102). -/
def pidBits (b : Byte) : BitVec 2 := b.extractLsb' 6 2

/-- The PID byte with parity field `p` and frame id `id` (30_encoding.md R102). -/
def pidByte (p : BitVec 2) (id : Fid) : Byte := p ++ id

/-- A frame id from a request's argument byte that is below 64 (30_encoding.md R112). -/
def argId (b : Byte) : Fid := b.setWidth 6

/-- `0xFF` for bit 1 and `0x00` for bit 0 (30_encoding.md R105, R114). -/
def slotChar (bit : Bool) : Byte := if bit then Config.owSlot1Char else Config.owSlot0Char

/-- A slot readback is bit 1 when it is 0xFF and bit 0 for every other value (30_encoding.md R106). -/
def slotBit (r : Byte) : Bool := r == 0xFF

/-- `rxb | (o << bit)` (43_onewire.md R303). -/
def putBit (rxb : Byte) (o : Bool) (bit : Nat) : Byte := rxb ||| ((if o then 1 else 0 : Byte) <<< bit)

/-- The little-endian raw temperature `{sp[1], sp[0]}` (20_memory.md R75, 44_ds18b20_crc8.md R343). -/
def rawOf (lo hi : Byte) : Raw := hi ++ lo

/-- The byte of each DS18B20 command (30_encoding.md R108). -/
def dsCmdByte : DsCmd → Byte
  | .skipRom => Config.dsSkipRom
  | .convert => Config.dsConvert
  | .readSp => Config.dsReadSp

/-- The rate a baud value names, in bits per second (00_scope.md R6). -/
def baudRate : Baud → Nat
  | .b9600 => 9600
  | .b115200 => 115200

/-- The selector of each operation of the OW agent (30_encoding.md R111). -/
def owOpSelector : OwOp → Byte
  | .reset => 0x10
  | .wrb => 0x12
  | .rb => 0x13
  | .wb => 0x14
  | .start => 0x20
  | .rawTemp => 0x21

end Sys2Proof.Machine
end

