-- ==== Sys2Proof/Machine/Flags.lean ====
section
/-! DEFINITION. The block has no flag register (10_state.md R47). This file holds the combinational units that compute its
verdicts: PID parity, the LIN checksum (41_lin_pid_checksum.md), presence (43_onewire.md R301) and CRC8 with the temperature
decode (44_ds18b20_crc8.md). -/

namespace Sys2Proof.Machine

/-- `PID.PARITY(id)` = `{P1, P0}` (41_lin_pid_checksum.md R200, 30_encoding.md R102; formula 93 G1, log entry 24). -/
def pidParity (id : Fid) : BitVec 2 :=
  let p0 := id.getLsbD 0 ^^ id.getLsbD 1 ^^ id.getLsbD 2 ^^ id.getLsbD 4
  let p1 := !(id.getLsbD 1 ^^ id.getLsbD 3 ^^ id.getLsbD 4 ^^ id.getLsbD 5)
  BitVec.ofBool p1 ++ BitVec.ofBool p0

/-- `PID.ENCODE(id)`: `{P1, P0, id}` (41_lin_pid_checksum.md R201). -/
def pidEncode (id : Fid) : Byte := pidByte (pidParity id) id

/-- `PID.VALIDATE(b)`: the id when bits 7..6 are its parity (41_lin_pid_checksum.md R202). -/
def pidValidate (b : Byte) : Option Fid :=
  if pidBits b = pidParity (pidId b) then some (pidId b) else none

/-- `CSUM.ADD(s, b)`: the exact 9-bit sum with its carry folded back into bit 0 (41_lin_pid_checksum.md R203). -/
def csumAdd (s b : Byte) : Byte :=
  let t := s.toNat + b.toNat
  if t > 0xFF then BitVec.ofNat 8 (t % 0x100 + 1) else BitVec.ofNat 8 t

/-- The carry-folded sum of the PID and the data, before the complement (41_lin_pid_checksum.md R204, R206). -/
def csumFold (pid : Byte) (data : List Byte) : Byte := data.foldl csumAdd pid

/-- `CSUM.GEN(pid, data)` (41_lin_pid_checksum.md R204). -/
def csumGen (pid : Byte) (data : List Byte) : Byte := ~~~(csumFold pid data)

/-- `CSUM.CHECK(pid, data, c)`: byte equality with the computed checksum (41_lin_pid_checksum.md R205). -/
def csumCheck (pid : Byte) (data : List Byte) (c : Byte) : Bool := csumGen pid data == c

/-- One of the eight rounds of `CRC8.UPDATE` on the register and what is left of the data byte
(44_ds18b20_crc8.md R340; algorithm 93 G3, log entry 24). -/
def crc8Round : Byte × Byte → Byte × Byte
  | (crc, b) =>
    let mix := (crc ^^^ b).getLsbD 0
    (if mix then (crc >>> 1) ^^^ Config.crc8Poly else crc >>> 1, b >>> 1)

/-- `CRC8.UPDATE(crc, b)`: eight rounds, bit 0 of `b` first (44_ds18b20_crc8.md R340). -/
def crc8Update (crc b : Byte) : Byte := ((crc8Round^[8]) (crc, b)).1

/-- `CRC8.CHECK(bytes)`: the register after all bytes, from 0x00, with no final exclusive or (44_ds18b20_crc8.md R341). -/
def crc8Check (bytes : List Byte) : Byte := bytes.foldl crc8Update 0

/-- `DS.DECODE(sp)`: bytes 0 and 1, low byte first; bytes 2 to 8 are not read (44_ds18b20_crc8.md R343). -/
def dsDecode : List Byte → Raw
  | lo :: hi :: _ => rawOf lo hi
  | _ => 0   -- not nine bytes: refused X03 before the unit sees it (30_encoding.md R112)

/-- Presence: the reset readback differs from 0xF0 (30_encoding.md R107, 43_onewire.md R301; 93 G2, log entry 24). -/
def presence (r : Byte) : Bool := r != Config.owResetChar

end Sys2Proof.Machine
end

