-- ==== Sys2Proof/Machine/State.lean ====
section
/-! DEFINITION. The machine's state as plain data: the LIN agent (10_state.md R34), the OW agent (R40), the host port's record
(30_encoding.md R110), and the environment's inputs (00_scope.md R7, R13; log entries 6 to 9). `none` in an `Option` element is
the spec's own `⊥`, "no value" (00_scope.md R12); reading it raises F04 (60_exceptions.md R405). -/

namespace Sys2Proof.Machine

/-! ### Names and records -/

/-- The two agents (10_state.md R30). -/
inductive Agent where
  | lin | ow
  deriving DecidableEq, Repr

/-- The state elements a rule reads, for F04's record (60_exceptions.md R404, R405). -/
inductive Elem where
  | linPid | linRspLen | linRspBuf | linCmdLen | linCmdCnt | linCmdBuf
  | owOp | owSeq | owTxb | owRxb | owBit | owPres | owResult | dsSp | dsIdx | dsResult
  deriving DecidableEq, Repr

/-- A fault record: the code, F01 to F04, with its info (60_exceptions.md R404). -/
inductive FaultRec where
  /-- F01 HANDLER_CONTRACT, with the frame id. -/
  | handlerContract (fid : Fid)
  /-- F02 SLOT_BAUD, with the baud rate. -/
  | slotBaud (baud : Baud)
  /-- F03 TRANSPORT_FAILURE, with the agent. -/
  | transportFailure (agent : Agent)
  /-- F04 UNWRITTEN_READ, with the element's name. -/
  | unwrittenRead (e : Elem)
  deriving DecidableEq, Repr

/-- A diagnostic record: the code, E01 to E07, with its info (60_exceptions.md R401). -/
inductive DiagRec where
  /-- E01 INVALID_BREAK, with the byte. -/
  | invalidBreak (b : Byte)
  /-- E02 INVALID_SYNC, with the byte. -/
  | invalidSync (b : Byte)
  /-- E03 INVALID_PID, with the byte. -/
  | invalidPid (b : Byte)
  /-- E04 UNKNOWN_ID, with the frame id. -/
  | unknownId (fid : Fid)
  /-- E05 LIN_CHECKSUM_MISMATCH, with (fid, expected, received). -/
  | linChecksum (fid : Fid) (expected received : Byte)
  /-- E06 ABSENT_DEVICE, with the readback. -/
  | absentDevice (r : Byte)
  /-- E07 SCRATCHPAD_CRC_MISMATCH, with the final CRC register. -/
  | scratchpadCrc (crc : Byte)
  deriving DecidableEq, Repr

/-- The primitives that can fail (00_scope.md R13). -/
inductive Primitive where
  | linRx | linTx | owRx | owTx
  deriving DecidableEq, Repr

/-- The refusal codes of the host port (60_exceptions.md R406). -/
inductive RefusalCode where
  /-- X01 UNKNOWN_SELECTOR. -/
  | unknownSelector
  /-- X02 BUSY. -/
  | busy
  /-- X03 BAD_OPERAND. -/
  | badOperand
  deriving DecidableEq, Repr

/-- `DS.RESULT` (10_state.md R44). -/
inductive DsResult where
  | ok (raw : Raw)
  | checksumError
  deriving DecidableEq, Repr

/-- The results of host requests (30_encoding.md R111). -/
inductive HostValue where
  | none
  | bit (b : Bool)
  | parity (p : BitVec 2)
  | byte (b : Byte)
  | validated (id : Option Fid)
  | raw (r : Raw)
  | temp (r : DsResult)
  deriving DecidableEq, Repr

/-! ### Traces (10_state.md R51, 60_exceptions.md R416) -/

/-- The LIN agent's events. -/
inductive LinEvent where
  | tx (bytes : List Byte)
  | handleCommand (fid : Fid) (data : List Byte)
  | diag (d : DiagRec)
  | failed (p : Primitive)
  deriving DecidableEq, Repr

/-- The OW agent's events, with the `rx(c)` of 30_encoding.md R115 (log entry 15). -/
inductive OwEvent where
  | baud (b : Baud)
  | tx (c : Byte)
  | rx (c : Byte)
  | delay (ms : Nat)
  | diag (d : DiagRec)
  | ret (v : HostValue)
  | failed (p : Primitive)
  deriving DecidableEq, Repr

/-- What the host port delivered: the answer of a functional unit, a refusal, or an operation's `Return`. -/
inductive HostEvent where
  | answered (sel : Byte) (v : HostValue)
  | refused (code : RefusalCode) (sel : Byte)
  | returned (op : OwOp) (v : HostValue)
  deriving DecidableEq, Repr

/-! ### The LIN agent -/

/-- `LIN.LST` (10_state.md R35). -/
inductive Lst where
  | scanBreak | scanSync | readPid | respond | recvCmd | drop | faulted
  deriving DecidableEq, Repr

/-- The LIN agent's elements (10_state.md R34). -/
structure LinAgent where
  lst : Lst
  pid : Option Byte
  rspLen : Option Nat
  rspBuf : Vector (Option Byte) 8
  cmdLen : Option Nat
  cmdCnt : Option Nat
  cmdBuf : Vector (Option Byte) 8
  fault : Option FaultRec
  trace : List LinEvent
  deriving DecidableEq, Repr

/-! ### The OW agent -/

/-- `OW.OWST` (10_state.md R45). -/
inductive Owst where
  | idle | busy | faulted
  deriving DecidableEq, Repr

/-- The statements of the OW procedures (43_onewire.md R301 to R305, 44_ds18b20_crc8.md R344, R346). The first four are
interface primitives; `slots` is one while `OW.BIT < 8`; the rest are pure. -/
inductive Stmt where
  /-- `OwSetBaud(rate)`. -/
  | setBaud (b : Baud)
  /-- `OwTx(0xF0)`. -/
  | txReset
  /-- `r <- OwRx()`. -/
  | rx
  /-- `Delay(ms)`. -/
  | delay (ms : Nat)
  /-- `while OW.BIT < 8:` with its body's `OwTx` of slot `OW.BIT`. -/
  | slots
  /-- `OW.PRES <- (r != 0xF0)` and its diagnostic. -/
  | presence
  /-- `OW.TXB <- x ; OW.RXB <- 0x00 ; OW.BIT <- 0`. -/
  | load (x : Byte)
  /-- The same for a DS18B20 command byte, `OW.WB(command)`. -/
  | command (c : DsCmd)
  /-- `OW.RXB <- OW.RXB | (o << OW.BIT) ; OW.BIT <- OW.BIT + 1`. -/
  | store
  /-- `OW.RESULT <- OW.RXB`, and the working elements to `⊥`. -/
  | unload
  /-- `DS.IDX <- 0`. -/
  | idxZero
  /-- `while DS.IDX < 9:` with its body's `OW.RB()`. -/
  | readBytes
  /-- `DS.SP[DS.IDX] <-` the byte read, and `DS.IDX <- DS.IDX + 1`. -/
  | storeByte
  /-- The CRC8 verdict, `DS.RESULT`, and `DS.IDX <- ⊥`. -/
  | verdict
  deriving DecidableEq, Repr

/-- `OW.SEQ`: the rest of the current procedure, and the procedure's local readback `r` (10_state.md R46, 00_scope.md R15;
log entry 12). -/
structure Seq where
  todo : List Stmt
  r : Option Byte
  deriving DecidableEq, Repr

/-- The OW agent's elements (10_state.md R40). -/
structure OwAgent where
  owst : Owst
  op : Option OwOp
  seq : Option Seq
  baud : Baud
  txb : Option Byte
  rxb : Option Byte
  bit : Option Nat
  pres : Option Bool
  result : Option Byte
  sp : Vector (Option Byte) 9
  idx : Option Nat
  crc : Option Byte
  dsResult : Option DsResult
  fault : Option FaultRec
  trace : List OwEvent
  deriving DecidableEq, Repr

/-! ### The environment (00_scope.md R7, R13; 60_exceptions.md R418) -/

/-- An answer of a transport's receive side: a byte, or a failure to report (00_scope.md R13). -/
inductive RxItem where
  | byte (b : Byte)
  | fail
  deriving DecidableEq, Repr

/-- A move of the environment or of the order in which agents step (20_memory.md R82, 60_exceptions.md R418; log entry 9). -/
inductive Move where
  /-- The LIN agent makes its next step. -/
  | lin
  /-- The OW agent makes its next step. -/
  | ow
  /-- The host makes a request. -/
  | host (sel : Byte) (args : List Byte)
  /-- A byte arrives on the LIN bus. -/
  | linByte (b : Byte)
  /-- The LIN transport's receive side fails. -/
  | linFail
  /-- The readback of the transmitted character arrives; with no `OwRx` held it is no move (60_exceptions.md R418). DESIGN CHOICE: nor is it
  one for a character whose `OwRx` a reset took away, and the readback is lost (log entry 26). -/
  | owByte (r : Byte)
  /-- The One-Wire transport fails to give the readback of the transmitted character. -/
  | owFail
  /-- The LIN agent is reset alone (70_reset_and_hazards.md R501). DESIGN CHOICE: each reset may come at any step, faulted or not (log
  entry 27). -/
  | restartLin
  /-- The OW agent is reset alone (R502), at any step (log entry 27). -/
  | restartOw
  /-- The block is reset (R500), at any step (log entry 27). -/
  | resetBlock
  deriving DecidableEq, Repr

/-- The environment's inputs as plain data, and the counters of free values, one for each agent and one for the turns. `linRx` is
what the LIN transport holds, and `owRx` is `OW_LINE`'s answers to the coming `OwRx`, one for each character sent (over a reset, log
entry 26). These are the model's own fields (log entries 6 to 9, 11). -/
structure Env where
  moves : List Move
  linRx : List RxItem
  owRx : List RxItem
  linTx : List Bool
  owTx : List Bool
  build : List (Option (List Byte))
  expect : List (Option Nat)
  linDraws : Nat
  owDraws : Nat
  turnDraws : Nat
  deriving DecidableEq, Repr

/-! ### The state and its reset -/

/-- Everything the spec gives the machine, and its inputs. -/
structure State where
  lin : LinAgent
  ow : OwAgent
  host : List HostEvent
  env : Env
  deriving DecidableEq, Repr

/-- The LIN agent at reset (10_state.md R52, 70_reset_and_hazards.md R500). -/
def LinAgent.reset : LinAgent where
  lst := .scanBreak
  pid := none
  rspLen := none
  rspBuf := Vector.replicate 8 none
  cmdLen := none
  cmdCnt := none
  cmdBuf := Vector.replicate 8 none
  fault := none
  trace := []

/-- The OW agent at reset (10_state.md R52, 70_reset_and_hazards.md R500). -/
def OwAgent.reset : OwAgent where
  owst := .idle
  op := none
  seq := none
  baud := Config.owBaudInit
  txb := none
  rxb := none
  bit := none
  pres := none
  result := none
  sp := Vector.replicate 9 none
  idx := none
  crc := none
  dsResult := none
  fault := none
  trace := []

/-- No input listed (log entries 6 to 9, 11). -/
def Env.reset : Env where
  moves := []
  linRx := []
  owRx := []
  linTx := []
  owTx := []
  build := []
  expect := []
  linDraws := 0
  owDraws := 0
  turnDraws := 0

/-- The machine right after reset (70_reset_and_hazards.md R500). -/
def State.reset : State where
  lin := LinAgent.reset
  ow := OwAgent.reset
  host := []
  env := Env.reset

/-! ### The model's stops

The spec's own faults F01 to F04 and refusals X01 to X03 are next states: the other agent and the host port go on
(60_exceptions.md R406, R408; log entry 17). What is left is below. -/

/-- Stuck states: states no rule covers, which no run from reset reaches (log entry 19). -/
inductive Fault where
  /-- RECV_CMD with CMD_CNT above CMD_LEN: no row of 30_encoding.md R103 selects a transition. Raised by the LIN agent's
  step and by the LIN_BYTE rows. Safe: the model stops. -/
  | noTransition
  /-- A buffer position outside the buffer (10_state.md R48). Raised by ENG.RESPOND, ENG.CMD_DATA, ENG.CMD_CK_OK,
  ENG.CMD_CK_BAD and DS.RAWTEMP's steps. Safe: the model stops. -/
  | noSuchElement
  deriving DecidableEq, Repr

/-- Why an instruction has no meaning in a state. -/
inductive Refusal where
  /-- The instruction is not modelled yet. Raised by exec's arms alone. Safe: the model stops. -/
  | notModelled (mnemonic : String)
  /-- The row names a transition or a character that this state and byte do not select (30_encoding.md R103,
  10_state.md R46), so the block does not make it. Raised by the LIN_STEP, INTERNAL, OW_CHAR and DS_CMD rows, never by
  `step`. Safe: the model stops (log entry 18). -/
  | notSelected (mnemonic : String)
  deriving DecidableEq, Repr

end Sys2Proof.Machine
end

