-- ==== Sys2Proof/Machine/Ops.lean ====
section
/-! DEFINITION. The shared operations: reading an element that may be `⊥` (00_scope.md R12), raising a fault and resetting an
agent (60_exceptions.md R404, R409; 70_reset_and_hazards.md R500 to R502), the host port (30_encoding.md R110), the environment's
answers (00_scope.md R13), and the LIN agent's buffers. -/

namespace Sys2Proof.Machine

/-- The outcome of one step. -/
abbrev Result := Host.Outcome State Fault Refusal

/-! ### Reading elements -/

/-- Why a rule's reads do not go through: a spec fault to raise, or a state no rule covers. -/
inductive Stop where
  | raise (f : FaultRec)
  | stuck (f : Fault)
  deriving DecidableEq, Repr

/-- Reading an element: `⊥` raises F04 with the element's name (60_exceptions.md R405). -/
def need {α : Type} (e : Elem) : Option α → Except Stop α
  | some v => .ok v
  | none => .error (.raise (.unwrittenRead e))

/-- Reading several elements of a buffer in order. -/
def needAll (e : Elem) : List (Option Byte) → Except Stop (List Byte)
  | [] => .ok []
  | o :: os =>
    match need e o with
    | .error st => .error st
    | .ok b =>
      match needAll e os with
      | .error st => .error st
      | .ok bs => .ok (b :: bs)

/-- `BUF[0..len]` (00_scope.md R11, R14). A position past the buffer is no element (log entry 19). -/
def readPrefix {n : Nat} (e : Elem) (buf : Vector (Option Byte) n) (len : Nat) : Except Stop (List Byte) :=
  if len ≤ n then needAll e (buf.toList.take len) else .error (.stuck .noSuchElement)

/-- `for i in 0..len(s): BUF[at + i] <- s[i]`. -/
def writeBytes {n : Nat} (buf : Vector (Option Byte) n) (at' : Nat) : List Byte → Vector (Option Byte) n
  | [] => buf
  | b :: bs => writeBytes (buf.setIfInBounds at' (some b)) (at' + 1) bs

/-! ### Raising a fault (60_exceptions.md R404, R409)

A faulting step writes only the agent's FAULT element, if it is still none, and its state register. -/

/-- The fault record that stands after raising `f`: the first one is kept. -/
def keepFirst (old : Option FaultRec) (f : FaultRec) : Option FaultRec :=
  match old with
  | some g => some g
  | none => some f

/-- `raise Fault(f)` on the LIN agent. -/
def raiseLin (f : FaultRec) (s : State) : Result :=
  .next { s with lin := { s.lin with lst := .faulted, fault := keepFirst s.lin.fault f } }

/-- `raise Fault(f)` on the OW agent. -/
def raiseOw (f : FaultRec) (s : State) : Result :=
  .next { s with ow := { s.ow with owst := .faulted, fault := keepFirst s.ow.fault f } }

/-- The LIN agent's record of an event (10_state.md R51). -/
def recordLin (e : LinEvent) (s : State) : State :=
  { s with lin := { s.lin with trace := s.lin.trace ++ [e] } }

/-- The OW agent's record of an event (10_state.md R51). -/
def recordOw (e : OwEvent) (s : State) : State :=
  { s with ow := { s.ow with trace := s.ow.trace ++ [e] } }

/-- A failed LIN primitive: `Failed(primitive)` and F03 (42_lin_engine.md R245, 60_exceptions.md R409). -/
def failLin (p : Primitive) (s : State) : Result :=
  raiseLin (.transportFailure .lin) (recordLin (.failed p) s)

/-- A failed One-Wire primitive: `Failed(primitive)` and F03 (43_onewire.md R311, 60_exceptions.md R409). -/
def failOw (p : Primitive) (s : State) : Result :=
  raiseOw (.transportFailure .ow) (recordOw (.failed p) s)

/-- A LIN step whose reads do not go through. -/
def stopLin (st : Stop) (s : State) : Result :=
  match st with
  | .raise f => raiseLin f s
  | .stuck f => .fault f

/-- An OW step whose reads do not go through. -/
def stopOw (st : Stop) (s : State) : Result :=
  match st with
  | .raise f => raiseOw f s
  | .stuck f => .fault f

/-! ### Reset: the only way out of a fault (60_exceptions.md R410) -/

/-- LIN agent reset (70_reset_and_hazards.md R501). Its record goes on (10_state.md R51; log
entry 16). DESIGN CHOICE: it may come in any state of the agent (log entry 27). -/
def restartLin (s : State) : State :=
  { s with lin := { LinAgent.reset with trace := s.lin.trace } }

/-- OW agent reset (70_reset_and_hazards.md R502): the rate becomes `OW_BAUD_INIT`. DESIGN CHOICE: it may come in any state of the agent, and
an operation in progress is lost with no `Return` (log entry 27); a character in flight then has no `OwRx`, and the answers listed are
those of the coming characters (log entry 26). -/
def restartOw (s : State) : State :=
  { s with ow := { OwAgent.reset with trace := s.ow.trace } }

/-- Block reset (70_reset_and_hazards.md R500). It does not reach the transports, the handler or the devices. DESIGN CHOICE: it may come at
any step (log entry 27), and a character in flight is treated as at the OW agent's own reset (log entry 26). -/
def resetBlock (s : State) : State :=
  { State.reset with env := s.env }

/-! ### The host port (30_encoding.md R110) -/

/-- The answer of a functional unit: no agent steps and no element changes. -/
def answer (sel : Byte) (v : HostValue) (s : State) : Result :=
  .next { s with host := s.host ++ [.answered sel v] }

/-- A refusal: recorded, and nothing else (60_exceptions.md R406). -/
def refuse (code : RefusalCode) (sel : Byte) (s : State) : Result :=
  .next { s with host := s.host ++ [.refused code sel] }

/-- A request to a functional unit: X03 when an argument is outside its type (30_encoding.md R112). -/
def answerTyped (typed : Bool) (sel : Byte) (v : HostValue) (s : State) : Result :=
  if typed then answer sel v s else refuse .badOperand sel s

/-- A request for an operation of the OW agent: X02 unless it is IDLE; else OP, SEQ and OWST are set (30_encoding.md R110). -/
def acceptOw (op : OwOp) (proc : List Stmt) (s : State) : Result :=
  if s.ow.owst = .idle then
    .next { s with ow := { s.ow with op := some op, seq := some ⟨proc, none⟩, owst := .busy } }
  else refuse .busy (owOpSelector op) s

/-! ### The environment's answers (00_scope.md R13; log entries 7, 8) -/

/-- Handler call 1 (42_lin_engine.md R230): the next listed answer, else a free one. -/
def drawBuild (fid : Fid) (e : Env) : Option (List Byte) × Env :=
  match e.build with
  | a :: rest => (a, { e with build := rest })
  | [] => (Config.buildResponse e.linDraws fid, { e with linDraws := e.linDraws + 1 })

/-- Handler call 2 (42_lin_engine.md R230): the next listed answer, else a free one. -/
def drawExpect (fid : Fid) (e : Env) : Option Nat × Env :=
  match e.expect with
  | a :: rest => (a, { e with expect := rest })
  | [] => (Config.expectedCommandLength e.linDraws fid, { e with linDraws := e.linDraws + 1 })

/-- Whether the coming `LinTx` completes: the next listed outcome, else a free one. -/
def drawLinTx (e : Env) : Bool × Env :=
  match e.linTx with
  | a :: rest => (a, { e with linTx := rest })
  | [] => (Config.linTxCompletes e.linDraws, { e with linDraws := e.linDraws + 1 })

/-- Whether the coming `OwTx` completes: the next listed outcome, else a free one. -/
def drawOwTx (e : Env) : Bool × Env :=
  match e.owTx with
  | a :: rest => (a, { e with owTx := rest })
  | [] => (Config.owTxCompletes e.owDraws, { e with owDraws := e.owDraws + 1 })

/-- A byte or a failure joins what the LIN transport holds (10_state.md R50). -/
def pushLinRx (i : RxItem) (s : State) : State :=
  { s with env := { s.env with linRx := s.env.linRx ++ [i] } }

/-! ### The LIN agent's reads -/

/-- In RECV_CMD: a data byte is awaited at position `cnt`, or the checksum of the frame (30_encoding.md R103). -/
inductive CmdPhase where
  | data (cnt : Nat)
  | check (pid : Byte) (d : List Byte)
  deriving DecidableEq, Repr

/-- What RECV_CMD awaits (30_encoding.md R103). -/
def cmdPhase (l : LinAgent) : Except Stop CmdPhase := do
  let cnt ← need .linCmdCnt l.cmdCnt
  let len ← need .linCmdLen l.cmdLen
  if cnt < len then .ok (.data cnt)
  else if cnt = len then do
    let d ← readPrefix .linCmdBuf l.cmdBuf len
    let pid ← need .linPid l.pid
    .ok (.check pid d)
  else .error (.stuck .noTransition)

/-- What RESPOND sends: the response and its checksum (42_lin_engine.md R239). -/
def responseFrame (l : LinAgent) : Except Stop (List Byte) := do
  let len ← need .linRspLen l.rspLen
  let data ← readPrefix .linRspBuf l.rspBuf len
  let pid ← need .linPid l.pid
  .ok (data ++ [csumGen pid data])

/-- The engine states that read a byte (42_lin_engine.md R232). -/
def Lst.reads : Lst → Bool
  | .scanBreak | .scanSync | .readPid | .recvCmd => true
  | .respond | .drop | .faulted => false

/-- The LIN agent holds on a `LinRx` (42_lin_engine.md R250). -/
def linHolds (s : State) : Bool := s.lin.lst.reads && s.env.linRx.isEmpty

end Sys2Proof.Machine
end

