-- ==== Sys2Proof/Machine/Sequencer.lean ====
section
/-! DEFINITION. The OW agent's procedures (43_onewire.md R301 to R305, 44_ds18b20_crc8.md R344, R346) and its step. One step is one
interface primitive. Pure statements join the step of the primitive that follows them, or, where none follows, of the one
before (00_scope.md R15; log entry 12). -/

namespace Sys2Proof.Machine

/-! ### The procedures -/

/-- `OW.RESET` (43_onewire.md R301). -/
def resetProc : List Stmt := [.setBaud .b9600, .txReset, .rx, .setBaud .b115200, .presence]

/-- `OW.WRB(x)` (43_onewire.md R303). -/
def byteProc (x : Byte) : List Stmt := [.load x, .slots, .unload]

/-- `OW.WB` of a DS18B20 command (43_onewire.md R305, 30_encoding.md R108). -/
def commandProc (c : DsCmd) : List Stmt := [.command c, .slots, .unload]

/-- `DS.START` (44_ds18b20_crc8.md R344). -/
def startProc : List Stmt := resetProc ++ commandProc .skipRom ++ commandProc .convert

/-- `DS.RAWTEMP` (44_ds18b20_crc8.md R346). -/
def rawTempProc : List Stmt :=
  startProc ++ [.delay Config.convDelayMs] ++ resetProc ++ commandProc .skipRom ++ commandProc .readSp
    ++ [.idxZero, .readBytes, .verdict]

/-! ### Pure statements -/

/-- `OW.TXB <- x ; OW.RXB <- 0x00 ; OW.BIT <- 0` (43_onewire.md R303). -/
def loadByte (x : Byte) (w : OwAgent) : OwAgent :=
  { w with txb := some x, rxb := some 0, bit := some 0 }

/-- The end of `OW.RESET`: the presence verdict and E06 (43_onewire.md R301). The readback `r` is in `OW.SEQ`. -/
def presenceStmt (r : Option Byte) (w : OwAgent) : Except Stop OwAgent := do
  let c ← need .owSeq r
  if presence c then .ok { w with pres := some true }
  else .ok { w with pres := some false, trace := w.trace ++ [.diag (.absentDevice c)] }

/-- The end of a slot: bit `OW.BIT` of `OW.RXB`, and the count (43_onewire.md R302, R303). -/
def storeStmt (r : Option Byte) (w : OwAgent) : Except Stop OwAgent := do
  let c ← need .owSeq r
  let rxb ← need .owRxb w.rxb
  let bit ← need .owBit w.bit
  .ok { w with rxb := some (putBit rxb (slotBit c) bit), bit := some (bit + 1) }

/-- The end of `OW.WRB` (43_onewire.md R303). -/
def unloadStmt (w : OwAgent) : Except Stop OwAgent := do
  let rxb ← need .owRxb w.rxb
  .ok { w with result := some rxb, txb := none, rxb := none, bit := none }

/-- `DS.SP[DS.IDX] <- OW.RB() ; DS.IDX <- DS.IDX + 1` after the byte is read (44_ds18b20_crc8.md R346). -/
def storeByteStmt (w : OwAgent) : Except Stop OwAgent := do
  let b ← need .owResult w.result
  let idx ← need .dsIdx w.idx
  if idx < Config.spLen then .ok { w with sp := w.sp.setIfInBounds idx (some b), idx := some (idx + 1) }
  else .error (.stuck .noSuchElement)

/-- The end of `DS.RAWTEMP`: the CRC8 verdict over all nine bytes (44_ds18b20_crc8.md R346). -/
def verdictStmt (w : OwAgent) : Except Stop OwAgent := do
  let sp ← readPrefix .dsSp w.sp Config.spLen
  let crc := crc8Check sp
  if crc = 0 then .ok { w with crc := some crc, dsResult := some (.ok (dsDecode sp)), idx := none }
  else .ok { w with crc := some crc, dsResult := some .checksumError, idx := none,
                    trace := w.trace ++ [.diag (.scratchpadCrc crc)] }

/-- The value the operation returns (30_encoding.md R111). -/
def returnValue (w : OwAgent) : Except Stop (OwOp × HostValue) := do
  let op ← need .owOp w.op
  match op with
  | .reset => do let p ← need .owPres w.pres; .ok (op, .bit p)
  | .wrb => do let b ← need .owResult w.result; .ok (op, .byte b)
  | .rb => do let b ← need .owResult w.result; .ok (op, .byte b)
  | .wb => .ok (op, .none)
  | .start => .ok (op, .none)
  | .rawTemp => do let t ← need .dsResult w.dsResult; .ok (op, .temp t)

/-! ### From where the procedure stands to its next primitive -/

/-- The OW agent's primitives; a slot's `OwTx` has the bit it sends. -/
inductive Prim where
  | setBaud (b : Baud)
  | txReset
  | rx
  | delay (ms : Nat)
  | txSlot (bit : Bool)
  deriving DecidableEq, Repr

/-- Where the pure statements lead: to a primitive, with what follows it, the agent before it, and the DS18B20 command
whose first slot it is if any; to the end of the operation with its value; or to a stop. -/
inductive Settled where
  | prim (p : Prim) (k : List Stmt) (w : OwAgent) (c : Option DsCmd)
  | done (op : OwOp) (v : HostValue) (w : OwAgent)
  | stop (st : Stop)
  deriving DecidableEq, Repr

/-- Goes on after a pure statement. -/
def andThen (x : Except Stop OwAgent) (f : OwAgent → Settled) : Settled :=
  match x with
  | .ok w => f w
  | .error st => .stop st

/-- Runs the pure statements that stand before the next primitive. `c` is the DS18B20 command just loaded, whose first slot
the next statement then sends; every other statement forgets it. -/
def settle (r : Option Byte) (c : Option DsCmd) : List Stmt → OwAgent → Settled
  | [], w =>
    match returnValue w with
    | .ok (op, v) => .done op v w
    | .error st => .stop st
  | .setBaud b :: k, w => .prim (.setBaud b) k w none
  | .txReset :: k, w => .prim .txReset k w none
  | .rx :: k, w => .prim .rx k w none
  | .delay ms :: k, w => .prim (.delay ms) k w none
  | .slots :: k, w =>
    match w.bit, w.txb with
    | none, _ => .stop (.raise (.unwrittenRead .owBit))
    | some n, txb =>
      if n < 8 then
        match txb with
        | none => .stop (.raise (.unwrittenRead .owTxb))
        | some x => .prim (.txSlot (x.getLsbD n)) (.rx :: .store :: .slots :: k) w c
      else settle r none k w
  | .presence :: k, w => andThen (presenceStmt r w) (settle r none k)
  | .load x :: k, w => settle r none k (loadByte x w)
  | .command d :: k, w => settle r (some d) k (loadByte (dsCmdByte d) w)
  | .store :: k, w => andThen (storeStmt r w) (settle r none k)
  | .unload :: k, w => andThen (unloadStmt w) (settle r none k)
  | .idxZero :: k, w => settle r none k { w with idx := some 0 }
  | .readBytes :: k, w =>
    match w.idx with
    | none => .stop (.raise (.unwrittenRead .dsIdx))
    | some n =>
      if n < Config.spLen then
        -- the first slot of `OW.RB()`, which is `OW.WRB(0xFF)` (43_onewire.md R304)
        .prim (.txSlot true) (.rx :: .store :: .slots :: .unload :: .storeByte :: .readBytes :: k) (loadByte 0xFF w) none
      else settle r none k w
  | .storeByte :: k, w => andThen (storeByteStmt w) (settle r none k)
  | .verdict :: k, w => andThen (verdictStmt w) (settle r none k)

/-! ### The OW agent's step -/

/-- `Return(v)`: the operation ends and the host gets `v` (00_scope.md R13, 30_encoding.md R110; log entry 14). -/
def finishOw (op : OwOp) (v : HostValue) (w : OwAgent) (s : State) : State :=
  { s with
    ow := { w with owst := .idle, op := none, seq := none, trace := w.trace ++ [.ret v] }
    host := s.host ++ [.returned op v] }

/-- The state with what the agent has recorded up to `w`, its elements as before the step (60_exceptions.md R409; log entry 13). -/
def recorded (w : OwAgent) (s : State) : State := { s with ow := { s.ow with trace := w.trace } }

/-- After a primitive: `w` is the agent with the primitive's effect. If only pure statements follow, they run now. -/
def completePrim (k : List Stmt) (r : Option Byte) (w : OwAgent) (s : State) : Result :=
  match settle r none k w with
  | .prim _ _ _ _ => .next { s with ow := { w with seq := some ⟨k, r⟩ } }
  | .done op v w' => .next (finishOw op v w' s)
  | .stop st => stopOw st (recorded w s)

/-- `OwTx(c)` (00_scope.md R13). -/
def transmit (c : Byte) (k : List Stmt) (r : Option Byte) (w : OwAgent) (s : State) : Result :=
  match drawOwTx s.env with
  | (true, env) => completePrim k r { w with trace := w.trace ++ [.tx c] } { s with env := env }
  | (false, env) => failOw .owTx (recorded w { s with env := env })

/-- `r <- OwRx()`: it holds while no readback is there (00_scope.md R13). -/
def receive (k : List Stmt) (w : OwAgent) (s : State) : Result :=
  match s.env.owRx with
  | [] => .next s
  | .fail :: rest => failOw .owRx (recorded w { s with env := { s.env with owRx := rest } })
  | .byte c :: rest =>
    completePrim k (some c) { w with trace := w.trace ++ [.rx c] } { s with env := { s.env with owRx := rest } }

/-- One primitive. A slot's rate is checked before its `OwTx` (43_onewire.md R302, 60_exceptions.md R407). -/
def runPrim (p : Prim) (k : List Stmt) (r : Option Byte) (w : OwAgent) (s : State) : Result :=
  match p with
  | .setBaud b => completePrim k r { w with baud := b, trace := w.trace ++ [.baud b] } s
  | .txReset => transmit Config.owResetChar k r w s
  | .rx => receive k w s
  | .delay ms => completePrim k r { w with trace := w.trace ++ [.delay ms] } s
  | .txSlot bit =>
    if w.baud = .b115200 then transmit (slotChar bit) k r w s
    else raiseOw (.slotBaud w.baud) (recorded w s)

/-- The OW agent's step. IDLE waits for a request and FAULTED for a reset: neither has a step (10_state.md R45; log entry 23). -/
def owStep (s : State) : Result :=
  match s.ow.owst with
  | .idle => .next s
  | .faulted => .next s
  | .busy =>
    match s.ow.seq with
    | none => raiseOw (.unwrittenRead .owSeq) s
    | some q =>
      match settle q.r none q.todo s.ow with
      | .prim p k w _ => runPrim p k q.r w s
      | .done op v w => .next (finishOw op v w s)
      | .stop st => stopOw st s

/-- The primitive the OW agent makes next, and the DS18B20 command whose first slot it is. -/
def owPending (w : OwAgent) : Option (Prim × Option DsCmd) :=
  match w.owst, w.seq with
  | .busy, some q =>
    match settle q.r none q.todo w with
    | .prim p _ _ c => some (p, c)
    | .done _ _ _ => none
    | .stop _ => none
  | .busy, none => none
  | .idle, _ => none
  | .faulted, _ => none

/-- The OW agent holds on an `OwRx`: a character was sent, and its readback is neither here nor listed (43_onewire.md R300). -/
def owHolds (s : State) : Bool :=
  match owPending s.ow with
  | some (.rx, _) => s.env.owRx.isEmpty
  | _ => false

/-- A readback or a failure comes from the One-Wire transport. It comes for a transmitted character alone, and one for each:
it completes the `OwRx` the agent holds on, and where none is held there is no such move (60_exceptions.md R418). DESIGN CHOICE: the
late readback of a character whose `OwRx` a reset took away is lost here, for the spec does not say what becomes of it (log entry 26). -/
def deliverOw (i : RxItem) (s : State) : Result :=
  if owHolds s then owStep { s with env := { s.env with owRx := [i] } } else .next s

/-- `n` steps of the OW agent, with no other move between them: for statements and tests. -/
def owSteps : Nat → State → Result
  | 0, s => .next s
  | n + 1, s =>
    match owStep s with
    | .next t => owSteps n t
    | .fault f => .fault f
    | .refused r => .refused r

end Sys2Proof.Machine
end

