-- ==== Sys2Proof/Machine/Ds18b20.lean ====
section
/-! DEFINITION. The DS18B20 rows (44_ds18b20_crc8.md): the two operations as host requests, and the three command bytes
(30_encoding.md R108), each sent as one One-Wire byte whose first slot its row makes and whose other slots follow. -/

namespace Sys2Proof.Machine

/-- `DS.START` requested (44_ds18b20_crc8.md R344). -/
def execDsStart (s : State) : Result := acceptOw .start startProc s

/-- `DS.RAWTEMP` requested (44_ds18b20_crc8.md R346). -/
def execDsRawTemp (s : State) : Result := acceptOw .rawTemp rawTempProc s

/-- The step that loads a command byte and sends the character of its bit 0 (30_encoding.md R108; log entry 21). -/
def beginCommand (c : DsCmd) (mnemonic : String) (s : State) : Result :=
  match owPending s.ow with
  | some (_, some d) => if d = c then owStep s else .refused (.notSelected mnemonic)
  | _ => .refused (.notSelected mnemonic)

/-- `DS.CMD_SKIP_ROM`, 0xCC (30_encoding.md R108). -/
def execDsCmdSkipRom (s : State) : Result := beginCommand .skipRom "DS.CMD_SKIP_ROM" s

/-- `DS.CMD_CONVERT`, 0x44 (30_encoding.md R108). -/
def execDsCmdConvert (s : State) : Result := beginCommand .convert "DS.CMD_CONVERT" s

/-- `DS.CMD_READ_SP`, 0xBE (30_encoding.md R108). -/
def execDsCmdReadSp (s : State) : Result := beginCommand .readSp "DS.CMD_READ_SP" s

end Sys2Proof.Machine
end

