-- ==== Sys2Proof/Machine/Engine.lean ====
section
/-! DEFINITION. The LIN engine's transitions (42_lin_engine.md R233 to R243). Each is one step with its received byte. A transition
that the state and byte do not select (30_encoding.md R103) is refused by name (log entry 18). -/

namespace Sys2Proof.Machine

/-- `goto X` (00_scope.md R12). -/
def gotoLst (x : Lst) (s : State) : State := { s with lin := { s.lin with lst := x } }

/-- A drop: the record, then `goto SCAN_BREAK` (60_exceptions.md R402, R407). -/
def dropWith (d : DiagRec) (s : State) : State := gotoLst .scanBreak (recordLin (.diag d) s)

/-- The command elements to `⊥` and `goto SCAN_BREAK`, at the end of a command frame (42_lin_engine.md R241, R242). -/
def endCommand (s : State) : State :=
  { s with lin := { s.lin with cmdLen := none, cmdCnt := none, cmdBuf := Vector.replicate 8 none, lst := .scanBreak } }

/-- `ENG.BREAK_HIT` (42_lin_engine.md R233). -/
def execEngBreakHit (b : Byte) (s : State) : Result :=
  if s.lin.lst = .scanBreak ∧ b = Config.linBreak then .next (gotoLst .scanSync s)
  else .refused (.notSelected "ENG.BREAK_HIT")

/-- `ENG.BREAK_SKIP` (42_lin_engine.md R234). -/
def execEngBreakSkip (b : Byte) (s : State) : Result :=
  if s.lin.lst = .scanBreak ∧ b ≠ Config.linBreak then .next (dropWith (.invalidBreak b) s)
  else .refused (.notSelected "ENG.BREAK_SKIP")

/-- `ENG.SYNC_OK` (42_lin_engine.md R235). -/
def execEngSyncOk (b : Byte) (s : State) : Result :=
  if s.lin.lst = .scanSync ∧ b = Config.linSync then .next (gotoLst .readPid s)
  else .refused (.notSelected "ENG.SYNC_OK")

/-- `ENG.SYNC_BAD` (42_lin_engine.md R236): the byte is gone (R246). -/
def execEngSyncBad (b : Byte) (s : State) : Result :=
  if s.lin.lst = .scanSync ∧ b ≠ Config.linSync then .next (dropWith (.invalidSync b) s)
  else .refused (.notSelected "ENG.SYNC_BAD")

/-- The frame is answered: `LIN.RSP_LEN` and `LIN.RSP_BUF` take the response (42_lin_engine.md R237). -/
def takeResponse (pid : Byte) (data : List Byte) (l : LinAgent) : LinAgent :=
  { l with pid := some pid, rspLen := some data.length, rspBuf := writeBytes l.rspBuf 0 data, lst := .respond }

/-- The frame is received: `LIN.CMD_LEN` and `LIN.CMD_CNT` are set (42_lin_engine.md R237). -/
def awaitCommand (pid : Byte) (k : Nat) (l : LinAgent) : LinAgent :=
  { l with pid := some pid, cmdLen := some k, cmdCnt := some 0, lst := .recvCmd }

/-- The handler's answers dispatch an accepted PID: call 1, and call 2 only if call 1 gave nothing. An answer outside
R231's bounds raises F01, and then nothing else is written (42_lin_engine.md R231, R237; 90_conflicts.md C4). -/
def dispatchPid (b : Byte) (fid : Fid) (s : State) : Result :=
  match drawBuild fid s.env with
  | (some data, env) =>
    if data.length > Config.maxData then raiseLin (.handlerContract fid) { s with env := env }
    else .next { s with env := env, lin := takeResponse b data s.lin }
  | (none, env₁) =>
    match drawExpect fid env₁ with
    | (some k, env) =>
      if k > Config.maxData then raiseLin (.handlerContract fid) { s with env := env }
      else .next { s with env := env, lin := awaitCommand b k s.lin }
    | (none, env) => .next { s with env := env, lin := { s.lin with pid := some b, lst := .drop } }

/-- `ENG.PID_OK` (42_lin_engine.md R237). -/
def execEngPidOk (b : Byte) (s : State) : Result :=
  if s.lin.lst = .readPid then
    match pidValidate b with
    | some fid => dispatchPid b fid s
    | none => .refused (.notSelected "ENG.PID_OK")
  else .refused (.notSelected "ENG.PID_OK")

/-- `ENG.PID_BAD` (42_lin_engine.md R238): `LIN.PID` keeps its value. -/
def execEngPidBad (b : Byte) (s : State) : Result :=
  if s.lin.lst = .readPid ∧ pidValidate b = none then .next (dropWith (.invalidPid b) s)
  else .refused (.notSelected "ENG.PID_BAD")

/-- `ENG.RESPOND` (42_lin_engine.md R239): one write-all of the response and its checksum. -/
def execEngRespond (s : State) : Result :=
  if s.lin.lst = .respond then
    match responseFrame s.lin with
    | .error st => stopLin st s
    | .ok frame =>
      match drawLinTx s.env with
      | (false, env) => failLin .linTx { s with env := env }
      | (true, env) =>
        .next { s with
          env := env
          lin := { s.lin with rspLen := none, rspBuf := Vector.replicate 8 none, lst := .scanBreak,
                              trace := s.lin.trace ++ [.tx frame] } }
  else .refused (.notSelected "ENG.RESPOND")

/-- `ENG.CMD_DATA` (42_lin_engine.md R240). -/
def execEngCmdData (b : Byte) (s : State) : Result :=
  if s.lin.lst = .recvCmd then
    match cmdPhase s.lin with
    | .error st => stopLin st s
    | .ok (.data cnt) =>
      if cnt < Config.maxData then
        .next { s with lin := { s.lin with cmdBuf := s.lin.cmdBuf.setIfInBounds cnt (some b), cmdCnt := some (cnt + 1) } }
      else .fault .noSuchElement
    | .ok (.check _ _) => .refused (.notSelected "ENG.CMD_DATA")
  else .refused (.notSelected "ENG.CMD_DATA")

/-- `ENG.CMD_CK_OK` (42_lin_engine.md R241): the handler gets exactly the data bytes. -/
def execEngCmdCkOk (b : Byte) (s : State) : Result :=
  if s.lin.lst = .recvCmd then
    match cmdPhase s.lin with
    | .error st => stopLin st s
    | .ok (.data _) => .refused (.notSelected "ENG.CMD_CK_OK")
    | .ok (.check pid d) =>
      if csumCheck pid d b then .next (endCommand (recordLin (.handleCommand (pidId pid) d) s))
      else .refused (.notSelected "ENG.CMD_CK_OK")
  else .refused (.notSelected "ENG.CMD_CK_OK")

/-- `ENG.CMD_CK_BAD` (42_lin_engine.md R242): the data is discarded and the handler is not called. -/
def execEngCmdCkBad (b : Byte) (s : State) : Result :=
  if s.lin.lst = .recvCmd then
    match cmdPhase s.lin with
    | .error st => stopLin st s
    | .ok (.data _) => .refused (.notSelected "ENG.CMD_CK_BAD")
    | .ok (.check pid d) =>
      if csumCheck pid d b then .refused (.notSelected "ENG.CMD_CK_BAD")
      else .next (endCommand (recordLin (.diag (.linChecksum (pidId pid) (csumGen pid d) b)) s))
  else .refused (.notSelected "ENG.CMD_CK_BAD")

/-- `ENG.DROP` (42_lin_engine.md R243): nothing is read. -/
def execEngDrop (s : State) : Result :=
  if s.lin.lst = .drop then
    match need .linPid s.lin.pid with
    | .error st => stopLin st s
    | .ok pid => .next (dropWith (.unknownId (pidId pid)) s)
  else .refused (.notSelected "ENG.DROP")

end Sys2Proof.Machine
end

