-- ==== Sys2Proof/Machine/LinBytes.lean ====
section
/-! DEFINITION. The LIN bytes (30_encoding.md R100 to R102): a byte arrives on the LIN bus. If the LIN agent holds on a `LinRx`, the
byte completes it and selects the engine's transition as R103 says, whatever the byte was sent as. Otherwise the transport
keeps it for later (10_state.md R50; log entry 20). -/

namespace Sys2Proof.Machine

/-- The transition that a received byte selects (30_encoding.md R103). RESPOND, DROP and FAULTED read no byte. -/
def linTransition (b : Byte) (s : State) : Result :=
  match s.lin.lst with
  | .scanBreak => if b = Config.linBreak then execEngBreakHit b s else execEngBreakSkip b s
  | .scanSync => if b = Config.linSync then execEngSyncOk b s else execEngSyncBad b s
  | .readPid => if (pidValidate b).isSome then execEngPidOk b s else execEngPidBad b s
  | .recvCmd =>
    match cmdPhase s.lin with
    | .error st => stopLin st s
    | .ok (.data _) => execEngCmdData b s
    | .ok (.check pid d) => if csumCheck pid d b then execEngCmdCkOk b s else execEngCmdCkBad b s
  | .respond => .next s
  | .drop => .next s
  | .faulted => .next s

/-- A byte arrives on the LIN bus. -/
def deliver (b : Byte) (s : State) : Result :=
  if linHolds s then linTransition b s else .next (pushLinRx (.byte b) s)

/-- `LIN.BREAK`: 0x00 (30_encoding.md R101). -/
def execLinBreak (s : State) : Result := deliver Config.linBreak s

/-- `LIN.SYNC`: 0x55 (30_encoding.md R100). -/
def execLinSync (s : State) : Result := deliver Config.linSync s

/-- `LIN.PID`: parity field and frame id (30_encoding.md R102). -/
def execLinPid (p : BitVec 2) (id : Fid) (s : State) : Result := deliver (pidByte p id) s

/-- `LIN.DATA`: any byte (30_encoding.md R100). -/
def execLinData (d : Byte) (s : State) : Result := deliver d s

/-- `LIN.CHECKSUM`: any byte (30_encoding.md R100, 41_lin_pid_checksum.md R204). -/
def execLinChecksum (c : Byte) (s : State) : Result := deliver c s

end Sys2Proof.Machine
end

