-- ==== Sys2Proof/Machine/OneWire.lean ====
section
/-! DEFINITION. The One-Wire rows (43_onewire.md): the four operations as host requests (their procedures then run one primitive a
step), the slot, and the three characters (30_encoding.md R105). -/

namespace Sys2Proof.Machine

/-- `OW.RESET` requested (43_onewire.md R301). -/
def execOwReset (s : State) : Result := acceptOw .reset resetProc s

/-- `OW.WRB(x)` requested (43_onewire.md R303). -/
def execOwWrb (x : Byte) (s : State) : Result := acceptOw .wrb (byteProc x) s

/-- `OW.RB` requested: `OW.WRB(0xFF)` (43_onewire.md R304, 30_encoding.md R116). -/
def execOwRb (s : State) : Result := acceptOw .rb (byteProc 0xFF) s

/-- `OW.WB(x)` requested: `OW.WRB(x)` without its result (43_onewire.md R305, 30_encoding.md R116). -/
def execOwWb (x : Byte) (s : State) : Result := acceptOw .wb (byteProc x) s

/-- `OW.SLOT(bit)`: both steps, `OwTx` of the bit's character and `OwRx` giving `r` (43_onewire.md R302; log entry 22). If the
first step faults, there is no second. -/
def execOwSlot (bit : Bool) (r : Byte) (s : State) : Result :=
  match owPending s.ow with
  | some (.txSlot b, _) =>
    if b = bit then
      match owStep s with
      | .next t =>
        if t.ow.owst = .busy then owStep { t with env := { t.env with owRx := .byte r :: t.env.owRx } } else .next t
      | .fault f => .fault f
      | .refused x => .refused x
    else .refused (.notSelected "OW.SLOT")
  | _ => .refused (.notSelected "OW.SLOT")

/-- `OW.CHAR_RESET`: the step `OwTx(0xF0)` of `OW.RESET` (30_encoding.md R105, 43_onewire.md R301; log entry 21). -/
def execOwCharReset (s : State) : Result :=
  match owPending s.ow with
  | some (.txReset, _) => owStep s
  | _ => .refused (.notSelected "OW.CHAR_RESET")

/-- `OW.CHAR_SLOT1`: the step `OwTx(0xFF)` of a slot that writes 1 or reads (30_encoding.md R105, 43_onewire.md R302;
log entry 21). -/
def execOwCharSlot1 (s : State) : Result :=
  match owPending s.ow with
  | some (.txSlot true, _) => owStep s
  | _ => .refused (.notSelected "OW.CHAR_SLOT1")

/-- `OW.CHAR_SLOT0`: the step `OwTx(0x00)` of a slot that writes 0 (30_encoding.md R105, 43_onewire.md R302; log entry 21). -/
def execOwCharSlot0 (s : State) : Result :=
  match owPending s.ow with
  | some (.txSlot false, _) => owStep s
  | _ => .refused (.notSelected "OW.CHAR_SLOT0")

end Sys2Proof.Machine
end

