-- ==== Sys2Proof/WellFormed.lean ====
section
/-! DEFINITION. When an instruction's raw arguments have the types the spec gives them: 30_encoding.md R111 and R112 for host
requests, R103 for the received byte of an engine transition, R102 for a PID byte. -/

namespace Sys2Proof

/-- Whether an instruction is well formed. An ill-typed host request is refused X03 (30_encoding.md R112). -/
def Instr.wf : Instr → Bool
  | .pidParity id => id.toNat < 64
  | .pidEncode id => id.toNat < 64
  | .pidValidate _ => true
  | .csumAdd _ _ => true
  | .csumGen _ data => data.length ≤ Config.maxData
  | .csumCheck _ data _ => data.length ≤ Config.maxData
  | .crc8Update _ _ => true
  | .crc8Check _ => true
  | .dsDecode sp => sp.length == Config.spLen
  | .owReset => true
  | .owWrb _ => true
  | .owRb => true
  | .owWb _ => true
  | .dsStart => true
  | .dsRawTemp => true
  | .owSlot _ _ => true
  | .engBreakHit b => b == Config.linBreak
  | .engBreakSkip b => b != Config.linBreak
  | .engSyncOk b => b == Config.linSync
  | .engSyncBad b => b != Config.linSync
  | .engPidOk b => (Machine.pidValidate b).isSome
  | .engPidBad b => (Machine.pidValidate b).isNone
  | .engRespond => true
  | .engCmdData _ => true
  | .engCmdCkOk _ => true
  | .engCmdCkBad _ => true
  | .engDrop => true
  | .linBreak => true
  | .linSync => true
  | .linPid p id => p == Machine.pidParity id
  | .linData _ => true
  | .linChecksum _ => true
  | .owCharReset => true
  | .owCharSlot1 => true
  | .owCharSlot0 => true
  | .dsCmdSkipRom => true
  | .dsCmdConvert => true
  | .dsCmdReadSp => true

end Sys2Proof
end

