-- ==== Sys2Proof/Machine/Units.lean ====
section
/-! DEFINITION. The host requests to the functional units (41_lin_pid_checksum.md, 44_ds18b20_crc8.md). Each is answered at once from
its arguments; no agent steps and no element changes (30_encoding.md R110). An argument outside its type is refused X03 (R112). -/

namespace Sys2Proof.Machine

/-- `PID.PARITY` (41_lin_pid_checksum.md R200). -/
def execPidParity (id : Byte) (s : State) : Result :=
  answerTyped (Instr.wf (.pidParity id)) 0x01 (.parity (pidParity (argId id))) s

/-- `PID.ENCODE` (41_lin_pid_checksum.md R201). -/
def execPidEncode (id : Byte) (s : State) : Result :=
  answerTyped (Instr.wf (.pidEncode id)) 0x02 (.byte (pidEncode (argId id))) s

/-- `PID.VALIDATE` (41_lin_pid_checksum.md R202). -/
def execPidValidate (b : Byte) (s : State) : Result :=
  answerTyped (Instr.wf (.pidValidate b)) 0x03 (.validated (pidValidate b)) s

/-- `CSUM.ADD` (41_lin_pid_checksum.md R203). -/
def execCsumAdd (x b : Byte) (s : State) : Result :=
  answerTyped (Instr.wf (.csumAdd x b)) 0x04 (.byte (csumAdd x b)) s

/-- `CSUM.GEN` (41_lin_pid_checksum.md R204). -/
def execCsumGen (pid : Byte) (data : List Byte) (s : State) : Result :=
  answerTyped (Instr.wf (.csumGen pid data)) 0x05 (.byte (csumGen pid data)) s

/-- `CSUM.CHECK` (41_lin_pid_checksum.md R205). -/
def execCsumCheck (pid : Byte) (data : List Byte) (c : Byte) (s : State) : Result :=
  answerTyped (Instr.wf (.csumCheck pid data c)) 0x06 (.bit (csumCheck pid data c)) s

/-- `CRC8.UPDATE` (44_ds18b20_crc8.md R340). -/
def execCrc8Update (crc b : Byte) (s : State) : Result :=
  answerTyped (Instr.wf (.crc8Update crc b)) 0x08 (.byte (crc8Update crc b)) s

/-- `CRC8.CHECK` (44_ds18b20_crc8.md R341). `DS.CRC` is not written. -/
def execCrc8Check (bytes : List Byte) (s : State) : Result :=
  answerTyped (Instr.wf (.crc8Check bytes)) 0x09 (.byte (crc8Check bytes)) s

/-- `DS.DECODE` (44_ds18b20_crc8.md R343). The CRC is not checked. -/
def execDsDecode (sp : List Byte) (s : State) : Result :=
  answerTyped (Instr.wf (.dsDecode sp)) 0x0A (.raw (dsDecode sp)) s

end Sys2Proof.Machine
end

