-- ==== Sys2Proof/Machine/Dispatch.lean ====
section
/-! DEFINITION. One arm per row of spec/opcode_table.json. -/

namespace Sys2Proof.Machine

def exec (i : Instr) (s : State) : Host.Outcome State Fault Refusal :=
  match i with
  -- HOST_REQ, functional units
  | .pidParity id => Sys2Proof.Machine.execPidParity id s
  | .pidEncode id => Sys2Proof.Machine.execPidEncode id s
  | .pidValidate b => Sys2Proof.Machine.execPidValidate b s
  | .csumAdd x b => Sys2Proof.Machine.execCsumAdd x b s
  | .csumGen pid data => Sys2Proof.Machine.execCsumGen pid data s
  | .csumCheck pid data c => Sys2Proof.Machine.execCsumCheck pid data c s
  | .crc8Update crc b => Sys2Proof.Machine.execCrc8Update crc b s
  | .crc8Check bytes => Sys2Proof.Machine.execCrc8Check bytes s
  | .dsDecode sp => Sys2Proof.Machine.execDsDecode sp s
  -- HOST_REQ, the OW agent
  | .owReset => Sys2Proof.Machine.execOwReset s
  | .owWrb x => Sys2Proof.Machine.execOwWrb x s
  | .owRb => Sys2Proof.Machine.execOwRb s
  | .owWb x => Sys2Proof.Machine.execOwWb x s
  | .dsStart => Sys2Proof.Machine.execDsStart s
  | .dsRawTemp => Sys2Proof.Machine.execDsRawTemp s
  -- INTERNAL
  | .owSlot bit r => Sys2Proof.Machine.execOwSlot bit r s
  -- LIN_STEP
  | .engBreakHit b => Sys2Proof.Machine.execEngBreakHit b s
  | .engBreakSkip b => Sys2Proof.Machine.execEngBreakSkip b s
  | .engSyncOk b => Sys2Proof.Machine.execEngSyncOk b s
  | .engSyncBad b => Sys2Proof.Machine.execEngSyncBad b s
  | .engPidOk b => Sys2Proof.Machine.execEngPidOk b s
  | .engPidBad b => Sys2Proof.Machine.execEngPidBad b s
  | .engRespond => Sys2Proof.Machine.execEngRespond s
  | .engCmdData b => Sys2Proof.Machine.execEngCmdData b s
  | .engCmdCkOk b => Sys2Proof.Machine.execEngCmdCkOk b s
  | .engCmdCkBad b => Sys2Proof.Machine.execEngCmdCkBad b s
  | .engDrop => Sys2Proof.Machine.execEngDrop s
  -- LIN_BYTE
  | .linBreak => Sys2Proof.Machine.execLinBreak s
  | .linSync => Sys2Proof.Machine.execLinSync s
  | .linPid p id => Sys2Proof.Machine.execLinPid p id s
  | .linData d => Sys2Proof.Machine.execLinData d s
  | .linChecksum c => Sys2Proof.Machine.execLinChecksum c s
  -- OW_CHAR
  | .owCharReset => Sys2Proof.Machine.execOwCharReset s
  | .owCharSlot1 => Sys2Proof.Machine.execOwCharSlot1 s
  | .owCharSlot0 => Sys2Proof.Machine.execOwCharSlot0 s
  -- DS_CMD
  | .dsCmdSkipRom => Sys2Proof.Machine.execDsCmdSkipRom s
  | .dsCmdConvert => Sys2Proof.Machine.execDsCmdConvert s
  | .dsCmdReadSp => Sys2Proof.Machine.execDsCmdReadSp s

end Sys2Proof.Machine
end

