-- ==== Sys2Proof/Decode.lean ====
section
/-! DEFINITION. The decoder, total on whatever stands on the block's interfaces, rejecting by name, and the encoder.
Host selectors and arguments: 30_encoding.md R111, R112 (argument bytes: log entry 2). Engine transitions: R103. LIN bytes: R100
to R102. One-Wire characters: R105. Slots: 43_onewire.md R302. DS18B20 commands: R108. Reserved encodings: R113. -/

namespace Sys2Proof

/-- Why the decoder rejects. The first two are the spec's own (60_exceptions.md R406, X01 and X03). -/
inductive DecodeError where
  /-- A reserved host selector (30_encoding.md R113). -/
  | unknownSelector (sel : Byte)
  /-- Arguments outside the selector's types (30_encoding.md R112). -/
  | badOperand (sel : Byte)
  /-- A character that makes no slot (30_encoding.md R105). -/
  | notASlot (c : Byte)
  /-- A byte where the state reads none, or no byte where it reads one (30_encoding.md R103). -/
  | noTransition
  /-- A byte that is not the frame field expected in its place (30_encoding.md R100). -/
  | notTheField (f : LinField) (b : Byte)
  /-- A character that is no One-Wire symbol at this rate (30_encoding.md R105). -/
  | notASymbol (baud : Baud) (c : Byte)
  /-- A byte that is no DS18B20 command of the block (30_encoding.md R108). -/
  | notACommand (b : Byte)
  deriving DecidableEq, Repr

/-- A decoded host request, or X03 when its arguments are outside their types (30_encoding.md R112). -/
def typedRequest (sel : Byte) (i : Instr) : Except DecodeError Instr :=
  if i.wf then .ok i else .error (.badOperand sel)

/-- A host request (30_encoding.md R111). A trailing byte sequence takes the rest of the arguments (log entry 2). -/
def decodeHost (sel : Byte) (args : List Byte) : Except DecodeError Instr :=
  let bad := .error (.badOperand sel)
  match sel.toNat with
  | 0x01 => match args with | [id] => typedRequest sel (.pidParity id) | _ => bad
  | 0x02 => match args with | [id] => typedRequest sel (.pidEncode id) | _ => bad
  | 0x03 => match args with | [b] => typedRequest sel (.pidValidate b) | _ => bad
  | 0x04 => match args with | [s, b] => typedRequest sel (.csumAdd s b) | _ => bad
  | 0x05 => match args with | pid :: data => typedRequest sel (.csumGen pid data) | _ => bad
  | 0x06 => match args with | pid :: c :: data => typedRequest sel (.csumCheck pid data c) | _ => bad
  | 0x08 => match args with | [crc, b] => typedRequest sel (.crc8Update crc b) | _ => bad
  | 0x09 => typedRequest sel (.crc8Check args)
  | 0x0A => typedRequest sel (.dsDecode args)
  | 0x10 => match args with | [] => typedRequest sel .owReset | _ => bad
  | 0x12 => match args with | [x] => typedRequest sel (.owWrb x) | _ => bad
  | 0x13 => match args with | [] => typedRequest sel .owRb | _ => bad
  | 0x14 => match args with | [x] => typedRequest sel (.owWb x) | _ => bad
  | 0x20 => match args with | [] => typedRequest sel .dsStart | _ => bad
  | 0x21 => match args with | [] => typedRequest sel .dsRawTemp | _ => bad
  | _ => .error (.unknownSelector sel)

/-- One slot: its character and its readback (43_onewire.md R302). -/
def decodeSlot (c r : Byte) : Except DecodeError Instr :=
  if c = Config.owSlot1Char then .ok (.owSlot true r)
  else if c = Config.owSlot0Char then .ok (.owSlot false r)
  else .error (.notASlot c)

/-- The engine transition that a state and a received byte select (30_encoding.md R103). -/
def decodeLinStep : LinSel → Option Byte → Except DecodeError Instr
  | .scanBreak, some b => if b = Config.linBreak then .ok (.engBreakHit b) else .ok (.engBreakSkip b)
  | .scanSync, some b => if b = Config.linSync then .ok (.engSyncOk b) else .ok (.engSyncBad b)
  | .readPid, some b => if (Machine.pidValidate b).isSome then .ok (.engPidOk b) else .ok (.engPidBad b)
  | .recvData, some b => .ok (.engCmdData b)
  | .recvCheck expected, some b => if b = expected then .ok (.engCmdCkOk b) else .ok (.engCmdCkBad b)
  | .respond, none => .ok .engRespond
  | .drop, none => .ok .engDrop
  | .scanBreak, none | .scanSync, none | .readPid, none | .recvData, none | .recvCheck _, none => .error .noTransition
  | .respond, some _ | .drop, some _ => .error .noTransition

/-- A byte in its place in a LIN frame (30_encoding.md R100 to R102). -/
def decodeLinByte (f : LinField) (b : Byte) : Except DecodeError Instr :=
  match f with
  | .break => if b = Config.linBreak then .ok .linBreak else .error (.notTheField f b)
  | .sync => if b = Config.linSync then .ok .linSync else .error (.notTheField f b)
  | .pid =>
    if (Machine.pidValidate b).isSome then .ok (.linPid (Machine.pidBits b) (Machine.pidId b))
    else .error (.notTheField f b)
  | .data => .ok (.linData b)
  | .checksum => .ok (.linChecksum b)

/-- A One-Wire symbol: a character at its rate (30_encoding.md R105). -/
def decodeOwChar (baud : Baud) (c : Byte) : Except DecodeError Instr :=
  match baud with
  | .b9600 => if c = Config.owResetChar then .ok .owCharReset else .error (.notASymbol baud c)
  | .b115200 =>
    if c = Config.owSlot1Char then .ok .owCharSlot1
    else if c = Config.owSlot0Char then .ok .owCharSlot0
    else .error (.notASymbol baud c)

/-- A DS18B20 command byte (30_encoding.md R108). -/
def decodeDsCmd (b : Byte) : Except DecodeError Instr :=
  if b = Config.dsSkipRom then .ok .dsCmdSkipRom
  else if b = Config.dsConvert then .ok .dsCmdConvert
  else if b = Config.dsReadSp then .ok .dsCmdReadSp
  else .error (.notACommand b)

/-- The decoder: total, and rejecting by name. -/
def decode : Code → Except DecodeError Instr
  | .host sel args => decodeHost sel args
  | .slot c r => decodeSlot c r
  | .linStep sel b => decodeLinStep sel b
  | .linByte f b => decodeLinByte f b
  | .owChar baud c => decodeOwChar baud c
  | .dsCmd b => decodeDsCmd b

/-- The encoder, from the same tables. A checksum mismatch has no one expected byte; the encoder takes the complement of the
received byte (log entry 3). -/
def encode : Instr → Code
  | .pidParity id => .host 0x01 [id]
  | .pidEncode id => .host 0x02 [id]
  | .pidValidate b => .host 0x03 [b]
  | .csumAdd s b => .host 0x04 [s, b]
  | .csumGen pid data => .host 0x05 (pid :: data)
  | .csumCheck pid data c => .host 0x06 (pid :: c :: data)
  | .crc8Update crc b => .host 0x08 [crc, b]
  | .crc8Check bytes => .host 0x09 bytes
  | .dsDecode sp => .host 0x0A sp
  | .owReset => .host 0x10 []
  | .owWrb x => .host 0x12 [x]
  | .owRb => .host 0x13 []
  | .owWb x => .host 0x14 [x]
  | .dsStart => .host 0x20 []
  | .dsRawTemp => .host 0x21 []
  | .owSlot bit r => .slot (Machine.slotChar bit) r
  | .engBreakHit b => .linStep .scanBreak (some b)
  | .engBreakSkip b => .linStep .scanBreak (some b)
  | .engSyncOk b => .linStep .scanSync (some b)
  | .engSyncBad b => .linStep .scanSync (some b)
  | .engPidOk b => .linStep .readPid (some b)
  | .engPidBad b => .linStep .readPid (some b)
  | .engRespond => .linStep .respond none
  | .engCmdData b => .linStep .recvData (some b)
  | .engCmdCkOk b => .linStep (.recvCheck b) (some b)
  | .engCmdCkBad b => .linStep (.recvCheck (~~~b)) (some b)
  | .engDrop => .linStep .drop none
  | .linBreak => .linByte .break Config.linBreak
  | .linSync => .linByte .sync Config.linSync
  | .linPid p id => .linByte .pid (Machine.pidByte p id)
  | .linData d => .linByte .data d
  | .linChecksum c => .linByte .checksum c
  | .owCharReset => .owChar .b9600 Config.owResetChar
  | .owCharSlot1 => .owChar .b115200 Config.owSlot1Char
  | .owCharSlot0 => .owChar .b115200 Config.owSlot0Char
  | .dsCmdSkipRom => .dsCmd Config.dsSkipRom
  | .dsCmdConvert => .dsCmd Config.dsConvert
  | .dsCmdReadSp => .dsCmd Config.dsReadSp

/-! ### The opcode table's words (log entry 4)

The table gives each fixed row eight bits and names no interface. The word's value says which interface it stands on. -/

/-- How many argument bytes the shortest well-typed request of a selector has (30_encoding.md R111), or none for a reserved
selector (R113). -/
def hostOperands (sel : Byte) : Option Nat :=
  match sel.toNat with
  | 0x01 | 0x02 | 0x03 | 0x05 | 0x12 | 0x14 => some 1
  | 0x04 | 0x06 | 0x08 => some 2
  | 0x09 | 0x10 | 0x13 | 0x20 | 0x21 => some 0
  | 0x0A => some 9
  | _ => none

/-- The `n` bytes of a number, the least significant first. -/
def wordBytes : Nat → Nat → List Byte
  | 0, _ => []
  | n + 1, w => BitVec.ofNat 8 w :: wordBytes n (w / 256)

/-- What a table word stands for. Its operand bytes above the given bits are zero. The word 0x00 is both LIN.BREAK and
OW.CHAR_SLOT0 in the table; it is read as the LIN byte (log entry 4). -/
def tableCode (nbits w : Nat) : Option Code :=
  match wordBytes (nbits / 8) w with
  | [] => none
  | b :: rest =>
    match hostOperands b with
    | some n => some (.host b (rest ++ List.replicate (n - rest.length) 0))
    | none =>
      if rest ≠ [] then none
      else if b = Config.linBreak then some (.linByte .break b)
      else if b = Config.linSync then some (.linByte .sync b)
      else if b = Config.owResetChar then some (.owChar .b9600 b)
      else if b = Config.owSlot1Char then some (.owChar .b115200 b)
      else if b = Config.dsSkipRom ∨ b = Config.dsConvert ∨ b = Config.dsReadSp then some (.dsCmd b)
      else some (.linByte .pid b)

/-- The instruction the decoder reads from a table word, or none where it refuses. -/
def decodeTableWord (nbits w : Nat) : Option Instr :=
  match tableCode nbits w with
  | none => none
  | some c => (decode c).toOption

end Sys2Proof
end

