-- ==== Sys2Proof/Machine/Fetch.lean ====
section
/-! DEFINITION. What each agent does next: the LIN agent's transition from its state and the byte it reads (30_encoding.md R103), the
OW agent's character from its place in the procedure (10_state.md R46), the field a LIN byte fills (R100); and where a table
word is put so that the next step runs it (log entry 5). -/

namespace Sys2Proof.Machine

/-- What selects the LIN agent's transition (30_encoding.md R103), in a state that reads a byte. -/
def linSelect (l : LinAgent) : Except Stop LinSel :=
  match l.lst with
  | .scanBreak => .ok .scanBreak
  | .scanSync => .ok .scanSync
  | .readPid => .ok .readPid
  | .respond => .ok .respond
  | .recvCmd =>
    match cmdPhase l with
    | .error st => .error st
    | .ok (.data _) => .ok .recvData
    | .ok (.check pid d) => .ok (.recvCheck (csumGen pid d))
  | .drop => .ok .drop
  | .faulted => .error (.stuck .noTransition)   -- FAULTED is not asked: it has no step

/-- The LIN agent's turn: it holds or has no step, its `LinRx` fails, a read does not go through, or it makes a transition
in a state from which the byte it read is taken. -/
inductive LinFetch where
  | hold
  | failed (s : State)
  | stop (st : Stop) (s : State)
  | instr (i : Instr) (s : State)

/-- The transition of a selection and a byte, or a stop (there is always one: 30_encoding.md R103). -/
def linDecoded (sel : LinSel) (b : Option Byte) (s : State) : LinFetch :=
  match decode (.linStep sel b) with
  | .ok i => .instr i s
  | .error _ => .stop (.stuck .noTransition) s

/-- The LIN agent's next transition. A failed `LinRx` gives no byte, so nothing else is tested (60_exceptions.md R407). -/
def linFetch (s : State) : LinFetch :=
  match s.lin.lst with
  | .faulted => .hold
  | .respond => linDecoded .respond none s
  | .drop => linDecoded .drop none s
  | .scanBreak | .scanSync | .readPid | .recvCmd =>
    match s.env.linRx with
    | [] => .hold
    | .fail :: rest => .failed { s with env := { s.env with linRx := rest } }
    | .byte b :: rest =>
      match linSelect s.lin with
      | .error st => .stop st { s with env := { s.env with linRx := rest } }
      | .ok sel => linDecoded sel (some b) { s with env := { s.env with linRx := rest } }

/-- The field that a byte arriving now fills in its frame, where the LIN agent waits for one (30_encoding.md R100). -/
def linField (s : State) : Option LinField :=
  if linHolds s then
    match s.lin.lst with
    | .scanBreak => some .break
    | .scanSync => some .sync
    | .readPid => some .pid
    | .recvCmd =>
      match cmdPhase s.lin with
      | .ok (.data _) => some .data
      | .ok (.check _ _) => some .checksum
      | .error _ => none
    | .respond => none
    | .drop => none
    | .faulted => none
  else none

/-- The LIN_BYTE row an arriving byte is, if it is the field expected. -/
def linSymbol (b : Byte) (s : State) : Option Instr :=
  match linField s with
  | some f => (decode (.linByte f b)).toOption
  | none => none

/-- The row of a DS18B20 command. -/
def dsCmdInstr : DsCmd → Instr
  | .skipRom => .dsCmdSkipRom
  | .convert => .dsCmdConvert
  | .readSp => .dsCmdReadSp

/-- The row whose step the OW agent makes next, if the table has one: a command's first slot, or a character. The other
primitives (`OwSetBaud`, `OwRx`, `Delay`) have no row. -/
def owFetch (w : OwAgent) : Option Instr :=
  match owPending w with
  | some (_, some d) => some (dsCmdInstr d)
  | some (.txReset, none) => some .owCharReset
  | some (.txSlot bit, none) => some (if bit then .owCharSlot1 else .owCharSlot0)
  | some (.setBaud _, none) => none
  | some (.rx, none) => none
  | some (.delay _, none) => none
  | none => none

/-! ### Placing a table word (log entry 5) -/

/-- A move that comes next. -/
def pushMove (m : Move) (s : State) : State := { s with env := { s.env with moves := m :: s.env.moves } }

/-- The OW agent in the middle of an operation, its next write completing, and its turn next. -/
def placeOw (op : OwOp) (baud : Baud) (todo : List Stmt) (s : State) : State :=
  pushMove .ow { s with
    ow := { s.ow with owst := .busy, op := some op, seq := some ⟨todo, none⟩, baud := baud }
    env := { s.env with owTx := true :: s.env.owTx } }

/-- The LIN agent waiting for a byte in the state that reads the field, and the byte arriving next. -/
def placeLin (l : LinAgent) (b : Byte) (s : State) : State :=
  pushMove (.linByte b) { s with lin := l, env := { s.env with linRx := [] } }

/-- Puts what stands on an interface where the next step takes it. The table gives no bits to the rows of the last two
forms. -/
def placeCode (c : Code) (s : State) : State :=
  match c with
  | .host sel args => pushMove (.host sel args) s
  | .linByte .break b => placeLin { s.lin with lst := .scanBreak } b s
  | .linByte .sync b => placeLin { s.lin with lst := .scanSync } b s
  | .linByte .pid b => placeLin { s.lin with lst := .readPid } b s
  | .linByte .data b => placeLin { s.lin with lst := .recvCmd, cmdLen := some 1, cmdCnt := some 0 } b s
  | .linByte .checksum b => placeLin { s.lin with lst := .recvCmd, cmdLen := some 0, cmdCnt := some 0 } b s
  | .owChar .b9600 _ => placeOw .reset .b9600 (resetProc.drop 1) s
  | .owChar .b115200 ch => placeOw .wrb .b115200 (byteProc ch) s
  | .dsCmd b =>
    if b = Config.dsSkipRom then placeOw .start .b115200 (startProc.drop 5) s
    else if b = Config.dsConvert then placeOw .start .b115200 (startProc.drop 8) s
    else placeOw .rawTemp .b115200 (rawTempProc.drop 20) s
  | .slot _ _ => s
  | .linStep _ _ => s

end Sys2Proof.Machine
end

