-- ==== Sys2Proof/Machine/Turns.lean ====
section
/-! DEFINITION. The turns: what one move does. An agent's turn runs the row that its state selects through `exec`; the host's
request is decoded and run, or refused by its code (60_exceptions.md R406). -/

namespace Sys2Proof.Machine

/-- The LIN agent's turn. Holding and FAULTED change nothing (42_lin_engine.md R250, 60_exceptions.md R404; log entry 23). -/
def linTurn (s : State) : Result :=
  match linFetch s with
  | .hold => .next s
  | .failed t => failLin .linRx t
  | .stop st t => stopLin st t
  | .instr i t => exec i t

/-- The OW agent's turn. -/
def owTurn (s : State) : Result :=
  match owFetch s.ow with
  | some i => exec i s
  | none => owStep s

/-- The host's request. X01 comes before X03, and X03 before X02 (60_exceptions.md R406, D36). -/
def hostTurn (sel : Byte) (args : List Byte) (s : State) : Result :=
  match decode (.host sel args) with
  | .ok i => exec i s
  | .error (.unknownSelector _) => refuse .unknownSelector sel s
  | .error _ => refuse .badOperand sel s

/-- A byte arrives on the LIN bus. A byte that is not the field expected is received all the same (30_encoding.md R113). -/
def linByteTurn (b : Byte) (s : State) : Result :=
  match linSymbol b s with
  | some i => exec i s
  | none => deliver b s

/-- One move. DESIGN CHOICE: a reset may be made in any state of the agents, faulted or not (log entry 27). -/
def runMove (m : Move) (s : State) : Result :=
  match m with
  | .lin => linTurn s
  | .ow => owTurn s
  | .host sel args => hostTurn sel args s
  | .linByte b => linByteTurn b s
  | .linFail => .next (pushLinRx .fail s)
  | .owByte r => deliverOw (.byte r) s
  | .owFail => deliverOw .fail s
  | .restartLin => .next (restartLin s)
  | .restartOw => .next (restartOw s)
  | .resetBlock => .next (resetBlock s)

/-- With no move listed, one of the agents takes its turn, freely chosen (20_memory.md R82; log entry 9). -/
def freeTurn (s : State) : Result :=
  let t : State := { s with env := { s.env with turnDraws := s.env.turnDraws + 1 } }
  if Config.linMoves s.env.turnDraws then linTurn t else owTurn t

/-- The next move, and the state without it. -/
def takeMove (s : State) : Option (Move × State) :=
  match s.env.moves with
  | [] => none
  | m :: ms => some (m, { s with env := { s.env with moves := ms } })

end Sys2Proof.Machine
end

