-- ==== Sys2Proof/Machine/Step.lean ====
section
/-! DEFINITION. One step of the machine, and the placing of a table word. -/

namespace Sys2Proof.Machine

/-- One step: the next listed move, or a free turn (20_memory.md R82). -/
def step (s : State) : Host.Outcome State Fault Refusal :=
  match takeMove s with
  | some (m, t) => runMove m t
  | none => freeTurn s

/-- `s` with the instruction of a table word where the next step takes it (log entry 5). -/
def State.withFetchWord (s : State) (nbits w : Nat) : State :=
  match tableCode nbits w with
  | some c => placeCode c s
  | none => s

end Sys2Proof.Machine
end

