-- ==== Sys2Proof/Laws/State.lean ====
section
/-! SUPPORT. One lemma per field per update of the state, each true by definition, so that no proof unfolds a record update. -/

namespace Sys2Proof.Machine

/-! ### `recordLin` -/

@[simp] theorem recordLin_ow (e : LinEvent) (s : State) : (recordLin e s).ow = s.ow := rfl
@[simp] theorem recordLin_host (e : LinEvent) (s : State) : (recordLin e s).host = s.host := rfl
@[simp] theorem recordLin_env (e : LinEvent) (s : State) : (recordLin e s).env = s.env := rfl
@[simp] theorem recordLin_lin_lst (e : LinEvent) (s : State) : (recordLin e s).lin.lst = s.lin.lst := rfl
@[simp] theorem recordLin_lin_pid (e : LinEvent) (s : State) : (recordLin e s).lin.pid = s.lin.pid := rfl
@[simp] theorem recordLin_lin_rspLen (e : LinEvent) (s : State) : (recordLin e s).lin.rspLen = s.lin.rspLen := rfl
@[simp] theorem recordLin_lin_rspBuf (e : LinEvent) (s : State) : (recordLin e s).lin.rspBuf = s.lin.rspBuf := rfl
@[simp] theorem recordLin_lin_cmdLen (e : LinEvent) (s : State) : (recordLin e s).lin.cmdLen = s.lin.cmdLen := rfl
@[simp] theorem recordLin_lin_cmdCnt (e : LinEvent) (s : State) : (recordLin e s).lin.cmdCnt = s.lin.cmdCnt := rfl
@[simp] theorem recordLin_lin_cmdBuf (e : LinEvent) (s : State) : (recordLin e s).lin.cmdBuf = s.lin.cmdBuf := rfl
@[simp] theorem recordLin_lin_fault (e : LinEvent) (s : State) : (recordLin e s).lin.fault = s.lin.fault := rfl
@[simp] theorem recordLin_lin_trace (e : LinEvent) (s : State) : (recordLin e s).lin.trace = s.lin.trace ++ [e] := rfl

/-! ### `recordOw` -/

@[simp] theorem recordOw_lin (e : OwEvent) (s : State) : (recordOw e s).lin = s.lin := rfl
@[simp] theorem recordOw_host (e : OwEvent) (s : State) : (recordOw e s).host = s.host := rfl
@[simp] theorem recordOw_env (e : OwEvent) (s : State) : (recordOw e s).env = s.env := rfl
@[simp] theorem recordOw_ow (e : OwEvent) (s : State) : (recordOw e s).ow = { s.ow with trace := s.ow.trace ++ [e] } := rfl

/-! ### `gotoLst` -/

@[simp] theorem gotoLst_ow (x : Lst) (s : State) : (gotoLst x s).ow = s.ow := rfl
@[simp] theorem gotoLst_host (x : Lst) (s : State) : (gotoLst x s).host = s.host := rfl
@[simp] theorem gotoLst_env (x : Lst) (s : State) : (gotoLst x s).env = s.env := rfl
@[simp] theorem gotoLst_lin_lst (x : Lst) (s : State) : (gotoLst x s).lin.lst = x := rfl
@[simp] theorem gotoLst_lin_pid (x : Lst) (s : State) : (gotoLst x s).lin.pid = s.lin.pid := rfl
@[simp] theorem gotoLst_lin_rspLen (x : Lst) (s : State) : (gotoLst x s).lin.rspLen = s.lin.rspLen := rfl
@[simp] theorem gotoLst_lin_rspBuf (x : Lst) (s : State) : (gotoLst x s).lin.rspBuf = s.lin.rspBuf := rfl
@[simp] theorem gotoLst_lin_cmdLen (x : Lst) (s : State) : (gotoLst x s).lin.cmdLen = s.lin.cmdLen := rfl
@[simp] theorem gotoLst_lin_cmdCnt (x : Lst) (s : State) : (gotoLst x s).lin.cmdCnt = s.lin.cmdCnt := rfl
@[simp] theorem gotoLst_lin_cmdBuf (x : Lst) (s : State) : (gotoLst x s).lin.cmdBuf = s.lin.cmdBuf := rfl
@[simp] theorem gotoLst_lin_fault (x : Lst) (s : State) : (gotoLst x s).lin.fault = s.lin.fault := rfl
@[simp] theorem gotoLst_lin_trace (x : Lst) (s : State) : (gotoLst x s).lin.trace = s.lin.trace := rfl

/-! ### `dropWith` -/

@[simp] theorem dropWith_ow (d : DiagRec) (s : State) : (dropWith d s).ow = s.ow := rfl
@[simp] theorem dropWith_host (d : DiagRec) (s : State) : (dropWith d s).host = s.host := rfl
@[simp] theorem dropWith_env (d : DiagRec) (s : State) : (dropWith d s).env = s.env := rfl
@[simp] theorem dropWith_lin_lst (d : DiagRec) (s : State) : (dropWith d s).lin.lst = .scanBreak := rfl
@[simp] theorem dropWith_lin_pid (d : DiagRec) (s : State) : (dropWith d s).lin.pid = s.lin.pid := rfl
@[simp] theorem dropWith_lin_rspLen (d : DiagRec) (s : State) : (dropWith d s).lin.rspLen = s.lin.rspLen := rfl
@[simp] theorem dropWith_lin_rspBuf (d : DiagRec) (s : State) : (dropWith d s).lin.rspBuf = s.lin.rspBuf := rfl
@[simp] theorem dropWith_lin_cmdLen (d : DiagRec) (s : State) : (dropWith d s).lin.cmdLen = s.lin.cmdLen := rfl
@[simp] theorem dropWith_lin_cmdCnt (d : DiagRec) (s : State) : (dropWith d s).lin.cmdCnt = s.lin.cmdCnt := rfl
@[simp] theorem dropWith_lin_cmdBuf (d : DiagRec) (s : State) : (dropWith d s).lin.cmdBuf = s.lin.cmdBuf := rfl
@[simp] theorem dropWith_lin_fault (d : DiagRec) (s : State) : (dropWith d s).lin.fault = s.lin.fault := rfl
@[simp] theorem dropWith_lin_trace (d : DiagRec) (s : State) : (dropWith d s).lin.trace = s.lin.trace ++ [.diag d] := rfl

/-! ### `endCommand` -/

@[simp] theorem endCommand_ow (s : State) : (endCommand s).ow = s.ow := rfl
@[simp] theorem endCommand_host (s : State) : (endCommand s).host = s.host := rfl
@[simp] theorem endCommand_env (s : State) : (endCommand s).env = s.env := rfl
@[simp] theorem endCommand_lin_lst (s : State) : (endCommand s).lin.lst = .scanBreak := rfl
@[simp] theorem endCommand_lin_pid (s : State) : (endCommand s).lin.pid = s.lin.pid := rfl
@[simp] theorem endCommand_lin_rspLen (s : State) : (endCommand s).lin.rspLen = s.lin.rspLen := rfl
@[simp] theorem endCommand_lin_rspBuf (s : State) : (endCommand s).lin.rspBuf = s.lin.rspBuf := rfl
@[simp] theorem endCommand_lin_cmdLen (s : State) : (endCommand s).lin.cmdLen = none := rfl
@[simp] theorem endCommand_lin_cmdCnt (s : State) : (endCommand s).lin.cmdCnt = none := rfl
@[simp] theorem endCommand_lin_cmdBuf (s : State) : (endCommand s).lin.cmdBuf = Vector.replicate 8 none := rfl
@[simp] theorem endCommand_lin_fault (s : State) : (endCommand s).lin.fault = s.lin.fault := rfl
@[simp] theorem endCommand_lin_trace (s : State) : (endCommand s).lin.trace = s.lin.trace := rfl

/-! ### `restartLin` -/

@[simp] theorem restartLin_lin (s : State) : (restartLin s).lin = { LinAgent.reset with trace := s.lin.trace } := rfl
@[simp] theorem restartLin_ow (s : State) : (restartLin s).ow = s.ow := rfl
@[simp] theorem restartLin_host (s : State) : (restartLin s).host = s.host := rfl
@[simp] theorem restartLin_env (s : State) : (restartLin s).env = s.env := rfl

/-! ### `restartOw` -/

@[simp] theorem restartOw_lin (s : State) : (restartOw s).lin = s.lin := rfl
@[simp] theorem restartOw_ow (s : State) : (restartOw s).ow = { OwAgent.reset with trace := s.ow.trace } := rfl
@[simp] theorem restartOw_host (s : State) : (restartOw s).host = s.host := rfl
@[simp] theorem restartOw_env (s : State) : (restartOw s).env = s.env := rfl

/-! ### `resetBlock` -/

@[simp] theorem resetBlock_lin (s : State) : (resetBlock s).lin = LinAgent.reset := rfl
@[simp] theorem resetBlock_ow (s : State) : (resetBlock s).ow = OwAgent.reset := rfl
@[simp] theorem resetBlock_host (s : State) : (resetBlock s).host = [] := rfl
@[simp] theorem resetBlock_env (s : State) : (resetBlock s).env = s.env := rfl

/-! ### `pushLinRx` -/

@[simp] theorem pushLinRx_lin (i : RxItem) (s : State) : (pushLinRx i s).lin = s.lin := rfl
@[simp] theorem pushLinRx_ow (i : RxItem) (s : State) : (pushLinRx i s).ow = s.ow := rfl
@[simp] theorem pushLinRx_host (i : RxItem) (s : State) : (pushLinRx i s).host = s.host := rfl
@[simp] theorem pushLinRx_env (i : RxItem) (s : State) : (pushLinRx i s).env = { s.env with linRx := s.env.linRx ++ [i] } := rfl

/-! ### `pushMove` -/

@[simp] theorem pushMove_lin (m : Move) (s : State) : (pushMove m s).lin = s.lin := rfl
@[simp] theorem pushMove_ow (m : Move) (s : State) : (pushMove m s).ow = s.ow := rfl
@[simp] theorem pushMove_host (m : Move) (s : State) : (pushMove m s).host = s.host := rfl
@[simp] theorem pushMove_env (m : Move) (s : State) : (pushMove m s).env = { s.env with moves := m :: s.env.moves } := rfl

/-! ### `recorded` -/

@[simp] theorem recorded_lin (w : OwAgent) (s : State) : (recorded w s).lin = s.lin := rfl
@[simp] theorem recorded_ow (w : OwAgent) (s : State) : (recorded w s).ow = { s.ow with trace := w.trace } := rfl
@[simp] theorem recorded_host (w : OwAgent) (s : State) : (recorded w s).host = s.host := rfl
@[simp] theorem recorded_env (w : OwAgent) (s : State) : (recorded w s).env = s.env := rfl

/-! ### `finishOw` -/

@[simp] theorem finishOw_lin (op : OwOp) (v : HostValue) (w : OwAgent) (s : State) : (finishOw op v w s).lin = s.lin := rfl
@[simp] theorem finishOw_ow (op : OwOp) (v : HostValue) (w : OwAgent) (s : State) : (finishOw op v w s).ow = { w with owst := .idle, op := none, seq := none, trace := w.trace ++ [.ret v] } := rfl
@[simp] theorem finishOw_host (op : OwOp) (v : HostValue) (w : OwAgent) (s : State) : (finishOw op v w s).host = s.host ++ [.returned op v] := rfl
@[simp] theorem finishOw_env (op : OwOp) (v : HostValue) (w : OwAgent) (s : State) : (finishOw op v w s).env = s.env := rfl

/-! ### Updates of one agent -/

@[simp] theorem takeResponse_lst (b : Byte) (data : List Byte) (l : LinAgent) : (takeResponse b data l).lst = .respond := rfl
@[simp] theorem takeResponse_pid (b : Byte) (data : List Byte) (l : LinAgent) : (takeResponse b data l).pid = some b := rfl
@[simp] theorem takeResponse_rspLen (b : Byte) (data : List Byte) (l : LinAgent) : (takeResponse b data l).rspLen = some data.length := rfl
@[simp] theorem takeResponse_rspBuf (b : Byte) (data : List Byte) (l : LinAgent) : (takeResponse b data l).rspBuf = writeBytes l.rspBuf 0 data := rfl
@[simp] theorem takeResponse_cmdLen (b : Byte) (data : List Byte) (l : LinAgent) : (takeResponse b data l).cmdLen = l.cmdLen := rfl
@[simp] theorem takeResponse_cmdCnt (b : Byte) (data : List Byte) (l : LinAgent) : (takeResponse b data l).cmdCnt = l.cmdCnt := rfl
@[simp] theorem takeResponse_cmdBuf (b : Byte) (data : List Byte) (l : LinAgent) : (takeResponse b data l).cmdBuf = l.cmdBuf := rfl
@[simp] theorem takeResponse_fault (b : Byte) (data : List Byte) (l : LinAgent) : (takeResponse b data l).fault = l.fault := rfl
@[simp] theorem takeResponse_trace (b : Byte) (data : List Byte) (l : LinAgent) : (takeResponse b data l).trace = l.trace := rfl
@[simp] theorem awaitCommand_lst (b : Byte) (k : Nat) (l : LinAgent) : (awaitCommand b k l).lst = .recvCmd := rfl
@[simp] theorem awaitCommand_pid (b : Byte) (k : Nat) (l : LinAgent) : (awaitCommand b k l).pid = some b := rfl
@[simp] theorem awaitCommand_rspLen (b : Byte) (k : Nat) (l : LinAgent) : (awaitCommand b k l).rspLen = l.rspLen := rfl
@[simp] theorem awaitCommand_rspBuf (b : Byte) (k : Nat) (l : LinAgent) : (awaitCommand b k l).rspBuf = l.rspBuf := rfl
@[simp] theorem awaitCommand_cmdLen (b : Byte) (k : Nat) (l : LinAgent) : (awaitCommand b k l).cmdLen = some k := rfl
@[simp] theorem awaitCommand_cmdCnt (b : Byte) (k : Nat) (l : LinAgent) : (awaitCommand b k l).cmdCnt = some 0 := rfl
@[simp] theorem awaitCommand_cmdBuf (b : Byte) (k : Nat) (l : LinAgent) : (awaitCommand b k l).cmdBuf = l.cmdBuf := rfl
@[simp] theorem awaitCommand_fault (b : Byte) (k : Nat) (l : LinAgent) : (awaitCommand b k l).fault = l.fault := rfl
@[simp] theorem awaitCommand_trace (b : Byte) (k : Nat) (l : LinAgent) : (awaitCommand b k l).trace = l.trace := rfl
@[simp] theorem loadByte_owst (x : Byte) (w : OwAgent) : (loadByte x w).owst = w.owst := rfl
@[simp] theorem loadByte_op (x : Byte) (w : OwAgent) : (loadByte x w).op = w.op := rfl
@[simp] theorem loadByte_seq (x : Byte) (w : OwAgent) : (loadByte x w).seq = w.seq := rfl
@[simp] theorem loadByte_baud (x : Byte) (w : OwAgent) : (loadByte x w).baud = w.baud := rfl
@[simp] theorem loadByte_txb (x : Byte) (w : OwAgent) : (loadByte x w).txb = some x := rfl
@[simp] theorem loadByte_rxb (x : Byte) (w : OwAgent) : (loadByte x w).rxb = some 0 := rfl
@[simp] theorem loadByte_bit (x : Byte) (w : OwAgent) : (loadByte x w).bit = some 0 := rfl
@[simp] theorem loadByte_pres (x : Byte) (w : OwAgent) : (loadByte x w).pres = w.pres := rfl
@[simp] theorem loadByte_result (x : Byte) (w : OwAgent) : (loadByte x w).result = w.result := rfl
@[simp] theorem loadByte_sp (x : Byte) (w : OwAgent) : (loadByte x w).sp = w.sp := rfl
@[simp] theorem loadByte_idx (x : Byte) (w : OwAgent) : (loadByte x w).idx = w.idx := rfl
@[simp] theorem loadByte_crc (x : Byte) (w : OwAgent) : (loadByte x w).crc = w.crc := rfl
@[simp] theorem loadByte_dsResult (x : Byte) (w : OwAgent) : (loadByte x w).dsResult = w.dsResult := rfl
@[simp] theorem loadByte_fault (x : Byte) (w : OwAgent) : (loadByte x w).fault = w.fault := rfl
@[simp] theorem loadByte_trace (x : Byte) (w : OwAgent) : (loadByte x w).trace = w.trace := rfl

/-! ### The reset state (10_state.md R52, 70_reset_and_hazards.md R500) -/

@[simp] theorem reset_lin : State.reset.lin = LinAgent.reset := rfl
@[simp] theorem reset_ow : State.reset.ow = OwAgent.reset := rfl
@[simp] theorem reset_host : State.reset.host = [] := rfl
@[simp] theorem reset_env : State.reset.env = Env.reset := rfl

end Sys2Proof.Machine
end

