-- ==== Sys2Proof/Safety.lean ====
section
/-! DEFINITION. What claims speak of: the observation and the end of a run (70_reset_and_hazards.md R510), the premises on the
One-Wire line (43_onewire.md R306), the byte that eight readbacks make, and the invariant of the machine's states. -/

namespace Sys2Proof.Machine

/-! ### The observation (10_state.md R51, 60_exceptions.md R416, 70_reset_and_hazards.md R510) -/

/-- The diagnostic record of a LIN event, if it is one. -/
def linDiag : LinEvent → Option DiagRec
  | .diag d => some d
  | .tx _ => none
  | .handleCommand _ _ => none
  | .failed _ => none

/-- The diagnostic record of an OW event, if it is one. -/
def owDiag : OwEvent → Option DiagRec
  | .diag d => some d
  | .baud _ => none
  | .tx _ => none
  | .rx _ => none
  | .delay _ => none
  | .ret _ => none
  | .failed _ => none

/-- The LIN agent's diagnostic stream. -/
def State.linDiags (s : State) : List DiagRec := s.lin.trace.filterMap linDiag

/-- The OW agent's diagnostic stream. -/
def State.owDiags (s : State) : List DiagRec := s.ow.trace.filterMap owDiag

/-- An event of the One-Wire transport or the delay (30_encoding.md R115). -/
def OwEvent.onWire : OwEvent → Bool
  | .baud _ => true
  | .tx _ => true
  | .rx _ => true
  | .delay _ => true
  | .diag _ => false
  | .ret _ => false
  | .failed _ => false

/-- The One-Wire events of a trace, in order. -/
def wire (trace : List OwEvent) : List OwEvent := trace.filter OwEvent.onWire

/-- A move that is a request of the host. -/
def Move.isRequest : Move → Bool
  | .host _ _ => true
  | .lin | .ow | .linByte _ | .linFail | .owByte _ | .owFail | .restartLin | .restartOw | .resetBlock => false

/-- A move that goes on with the `LIN_RX` stream. -/
def Move.onLinRx : Move → Bool
  | .linByte _ | .linFail => true
  | .lin | .ow | .host _ _ | .owByte _ | .owFail | .restartLin | .restartOw | .resetBlock => false

/-- The OW agent is IDLE and the host has no request to come. -/
def State.noRequest (s : State) : Bool := s.ow.owst == .idle && !s.env.moves.any Move.isRequest

/-- The LIN agent holds on a `LinRx` with nothing of `LIN_RX` to come. -/
def State.linExhausted (s : State) : Bool := linHolds s && !s.env.moves.any Move.onLinRx

/-- A run has ended: no request is pending, the `LIN_RX` stream is exhausted, and neither agent has faulted. What else is
listed (turns, readbacks, resets) is no part of it (70_reset_and_hazards.md R510). -/
def State.runEnded (s : State) : Bool := s.noRequest && s.linExhausted && s.lin.fault.isNone && s.ow.fault.isNone

/-! ### Premises on the One-Wire line (43_onewire.md R306)

A claim may name either; the model assumes neither. -/

/-- `OW_NO_DEVICE`: the readback equals the character sent. -/
def owNoDevice (c r : Byte) : Prop := r = c

/-- `OW_OPEN_DRAIN`: the readback has no 1 bit where the character sent has a 0 bit. -/
def owOpenDrain (c r : Byte) : Prop := r &&& ~~~c = 0

/-- The byte that the readbacks of slots 0 to 7 make: bit i is 1 iff readback i is 0xFF (30_encoding.md R114). -/
def byteOfSlots (rs : Fin 8 → Byte) : Byte := BitVec.ofFnLE fun i => slotBit (rs i)

/-- The readbacks of eight slots as the transport holds them. -/
def slotItems (rs : Fin 8 → Byte) : List RxItem := (List.ofFn rs).map .byte

/-- The events of the eight slots of `OW.WRB(x)`: each character with its readback (43_onewire.md R303). -/
def slotEvents (x : Byte) (rs : Fin 8 → Byte) : List OwEvent :=
  (List.ofFn fun i : Fin 8 => [OwEvent.tx (slotChar (x.getLsbD i)), OwEvent.rx (rs i)]).flatten

/-- The events of `OW.RESET` (43_onewire.md R301). -/
def resetEvents (r : Byte) : List OwEvent :=
  [.baud .b9600, .tx Config.owResetChar, .rx r, .baud .b115200]

/-- E06 with the readback, when it shows no presence (43_onewire.md R301). -/
def absenceEvents (r : Byte) : List OwEvent := if r = Config.owResetChar then [.diag (.absentDevice r)] else []

/-- The state that a fault of the LIN agent leaves: its record (if it is the first) and FAULTED, the events `es`, and all else as
before (60_exceptions.md R404, R409). -/
def linFaulted (f : FaultRec) (es : List LinEvent) (s : State) : State :=
  { s with lin := { s.lin with lst := .faulted, fault := keepFirst s.lin.fault f, trace := s.lin.trace ++ es } }

/-- The same for the OW agent. -/
def owFaulted (f : FaultRec) (es : List OwEvent) (s : State) : State :=
  { s with ow := { s.ow with owst := .faulted, fault := keepFirst s.ow.fault f, trace := s.ow.trace ++ es } }

/-- The environment without the readbacks and outcomes that an operation used. -/
def owInputs (rx : List RxItem) (tx : List Bool) (s : State) : State :=
  { s with env := { s.env with owRx := rx, owTx := tx } }

/-- The LIN stream without the bytes that were read. -/
def linInput (rx : List RxItem) (s : State) : State := { s with env := { s.env with linRx := rx } }

/-- The moves without the one that was made. -/
def movesLeft (ms : List Move) (s : State) : State := { s with env := { s.env with moves := ms } }

/-- The LIN agent's next `n` steps, with no other move between them: for statements and tests. -/
def linTurns : Nat → State → Result
  | 0, s => .next s
  | n + 1, s =>
    match linTurn s with
    | .next t => linTurns n t
    | .fault f => .fault f
    | .refused r => .refused r

/-! ### The invariant -/

/-- Exactly the first `n` elements of a buffer hold a byte; the others are `⊥` (10_state.md R37, R38). -/
def exactly (buf : Vector (Option Byte) 8) (n : Nat) : Bool :=
  decide (n ≤ 8) && (buf.toList.take n).all Option.isSome && (buf.toList.drop n).all Option.isNone

/-- Not F04: a run of the block as specified never raises it (60_exceptions.md R405). -/
def notUnwritten : FaultRec → Bool
  | .unwrittenRead _ => false
  | .handlerContract _ => true
  | .slotBaud _ => true
  | .transportFailure _ => true

/-- The response elements are `⊥`, as outside RESPOND (10_state.md R37). -/
def LinAgent.noResponse (l : LinAgent) : Bool := l.rspLen.isNone && exactly l.rspBuf 0

/-- The command elements are `⊥`, as outside RECV_CMD (10_state.md R38). -/
def LinAgent.noCommand (l : LinAgent) : Bool := l.cmdLen.isNone && l.cmdCnt.isNone && exactly l.cmdBuf 0

/-- What holds of the LIN agent's elements in each engine state (10_state.md R36 to R38, 60_exceptions.md R404). -/
def LinAgent.phaseOk (l : LinAgent) : Bool :=
  match l.lst with
  | .scanBreak | .scanSync | .readPid => l.fault.isNone && l.noResponse && l.noCommand
  | .respond => l.fault.isNone && l.pid.isSome && l.rspLen.any (exactly l.rspBuf) && l.noCommand
  | .recvCmd =>
    l.fault.isNone && l.pid.isSome && l.noResponse
      && l.cmdLen.any fun len => l.cmdCnt.any fun cnt => decide (cnt ≤ len) && decide (len ≤ 8) && exactly l.cmdBuf cnt
  | .drop => l.fault.isNone && l.pid.isSome && l.noResponse && l.noCommand
  | .faulted => l.fault.isSome

/-- The LIN agent's invariant: `LIN.PID` is a valid PID (10_state.md R36), no F04 stands, and each engine state has its
elements. -/
def LinAgent.ok (l : LinAgent) : Bool :=
  (l.pid.all fun p => (pidValidate p).isSome) && l.fault.all notUnwritten && l.phaseOk

/-- Which elements the rest of a procedure may rely on. -/
structure Known where
  /-- TXB, RXB and BIT are written. -/
  byte : Bool
  /-- `OW.BIT` is below 8. -/
  slotOpen : Bool
  /-- The local readback is there. -/
  r : Bool
  pres : Bool
  result : Bool
  idx : Bool
  /-- `DS.IDX` is below 9. -/
  room : Bool
  /-- All of `DS.SP` is written. -/
  full : Bool
  verdict : Bool
  deriving DecidableEq, Repr

/-- What is known in the agent's elements. -/
def known (w : OwAgent) (r : Option Byte) : Known where
  byte := w.txb.isSome && w.rxb.isSome && w.bit.isSome
  slotOpen := w.bit.any (decide <| · < 8)
  r := r.isSome
  pres := w.pres.isSome
  result := w.result.isSome
  idx := w.idx.isSome
  room := w.idx.any (decide <| · < 9)
  full := w.sp.toList.all Option.isSome
  verdict := w.dsResult.isSome

/-- Every statement of the rest of a procedure reads only written elements, and the operation ends with its working elements
at `⊥` and its value written (10_state.md R48, 43_onewire.md R310). -/
def covers (op : OwOp) : Known → List Stmt → Bool
  | K, [] =>
    !K.byte && !K.idx &&
      match op with
      | .reset => K.pres
      | .wrb => K.result
      | .rb => K.result
      | .wb => true
      | .start => true
      | .rawTemp => K.verdict
  | K, .setBaud _ :: k => covers op K k
  | K, .txReset :: k => covers op K k
  | K, .rx :: k => covers op { K with r := true } k
  | K, .delay _ :: k => covers op K k
  | K, .slots :: k => K.byte && covers op { K with slotOpen := false } k
  | K, .presence :: k => K.r && covers op { K with pres := true } k
  | K, .load _ :: k => covers op { K with byte := true, slotOpen := true } k
  | K, .command _ :: k => covers op { K with byte := true, slotOpen := true } k
  | K, .store :: k => K.r && K.byte && K.slotOpen && covers op { K with slotOpen := false } k
  | K, .unload :: k => K.byte && covers op { K with byte := false, slotOpen := false, result := true } k
  | K, .idxZero :: k => covers op { K with idx := true, room := true } k
  | K, .readBytes :: k => K.idx && !K.byte && covers op { K with room := false, full := true } k
  | K, .storeByte :: k => K.result && K.idx && K.room && covers op { K with room := false } k
  | K, .verdict :: k => K.full && covers op { K with idx := false, room := false, verdict := true } k

/-- The working elements' ranges, and that those of one byte are written together (10_state.md R40, R43). -/
def OwAgent.rangesOk (w : OwAgent) : Bool :=
  w.txb.isSome == w.bit.isSome && w.rxb.isSome == w.bit.isSome && w.bit.all (decide <| · ≤ 8)
    && w.idx.all fun n => decide (n ≤ 9) && (w.sp.toList.take n).all Option.isSome

/-- What holds of the OW agent's elements in each of its states (10_state.md R45, 43_onewire.md R310, 60_exceptions.md R404). -/
def OwAgent.phaseOk (w : OwAgent) : Bool :=
  match w.owst with
  | .idle => w.fault.isNone && w.op.isNone && w.seq.isNone && w.bit.isNone && w.idx.isNone
  | .busy => w.fault.isNone && w.op.any fun op => w.seq.any fun q => covers op (known w q.r) q.todo
  | .faulted => w.fault.isSome

/-- The OW agent's invariant. -/
def OwAgent.ok (w : OwAgent) : Bool := w.fault.all notUnwritten && w.rangesOk && w.phaseOk

/-- The invariant of the machine's states. -/
abbrev State.Inv (s : State) : Prop := s.lin.ok = true ∧ s.ow.ok = true

end Sys2Proof.Machine
end

