-- ==== Sys2Proof/Laws/Ops.lean ====
section
/-! SUPPORT. What each shared operation can do, once, for the proofs that cite it. -/

namespace Sys2Proof.Machine

/-! ### Reading elements -/

@[simp] theorem need_some {α : Type} (e : Elem) (v : α) : need e (some v) = .ok v := rfl

@[simp] theorem need_none {α : Type} (e : Elem) : need e (none : Option α) = .error (.raise (.unwrittenRead e)) := rfl

theorem need_eq_ok {α : Type} {e : Elem} {o : Option α} {v : α} : need e o = .ok v ↔ o = some v := by
  cases o <;> simp

/-- Reading written elements gives their bytes. -/
@[simp] theorem needAll_map_some (e : Elem) (bs : List Byte) : needAll e (bs.map some) = .ok bs := by
  induction bs with
  | nil => rfl
  | cons b bs ih => simp [needAll, ih]

/-- What a read of several elements gives was in them. -/
theorem needAll_eq_ok {e : Elem} {os : List (Option Byte)} {bs : List Byte} (h : needAll e os = .ok bs) :
    os = bs.map some := by
  induction os generalizing bs with
  | nil => simp [needAll] at h; simp [← h]
  | cons o os ih =>
    cases o with
    | none => simp [needAll] at h
    | some b =>
      simp only [needAll, need_some] at h
      split at h
      · cases h
      · next bs' h' => cases h; simp [ih h']

/-- Elements that are all written can be read. -/
theorem needAll_of_all {e : Elem} {os : List (Option Byte)} (h : os.all Option.isSome = true) :
    ∃ bs, needAll e os = .ok bs := by
  induction os with
  | nil => exact ⟨[], rfl⟩
  | cons o os ih =>
    cases o with
    | none => simp at h
    | some b =>
      obtain ⟨bs, hbs⟩ := ih (by simpa using h)
      exact ⟨b :: bs, by simp [needAll, hbs]⟩

/-- A prefix that is written can be read. -/
theorem readPrefix_of_all {n : Nat} {e : Elem} {buf : Vector (Option Byte) n} {len : Nat} (hn : len ≤ n)
    (h : (buf.toList.take len).all Option.isSome = true) : ∃ bs, readPrefix e buf len = .ok bs := by
  simpa [readPrefix, hn] using needAll_of_all h

/-- What a prefix read gives is what the prefix holds. -/
theorem readPrefix_eq_ok {n : Nat} {e : Elem} {buf : Vector (Option Byte) n} {len : Nat} {bs : List Byte}
    (h : readPrefix e buf len = .ok bs) : len ≤ n ∧ buf.toList.take len = bs.map some := by
  unfold readPrefix at h
  split at h
  · next hn => exact ⟨hn, needAll_eq_ok h⟩
  · cases h

/-! ### Writing buffers -/

/-- The elements of a buffer after bytes are written into it. -/
theorem writeBytes_toList {n : Nat} (buf : Vector (Option Byte) n) (pos : Nat) (bs : List Byte) (h : pos + bs.length ≤ n) :
    (writeBytes buf pos bs).toList = buf.toList.take pos ++ bs.map some ++ buf.toList.drop (pos + bs.length) := by
  induction bs generalizing buf pos with
  | nil => simp [writeBytes]
  | cons b bs ih =>
    simp only [List.length_cons] at h
    have hl : pos < buf.toList.length := by simp; omega
    rw [writeBytes, ih _ _ (by omega), Vector.toList_setIfInBounds, List.take_add_one,
      List.take_set_of_le (by omega), List.getElem?_set_self hl, List.drop_set_of_lt (by omega)]
    simp [Nat.add_assoc, Nat.add_comm 1]

/-- What is written from the start of a buffer is read back. -/
theorem readPrefix_writeBytes {n : Nat} (e : Elem) (buf : Vector (Option Byte) n) (bs : List Byte) (h : bs.length ≤ n) :
    readPrefix e (writeBytes buf 0 bs) bs.length = .ok bs := by
  rw [readPrefix, if_pos h, writeBytes_toList _ _ _ (by omega)]
  simp

/-- Writing one more byte after a written prefix. -/
theorem writeBytes_append_one {n : Nat} (buf : Vector (Option Byte) n) (bs : List Byte) (b : Byte) (pos : Nat) :
    (writeBytes buf pos bs).setIfInBounds (pos + bs.length) (some b) = writeBytes buf pos (bs ++ [b]) := by
  induction bs generalizing buf pos with
  | nil => rfl
  | cons c bs ih =>
    simp only [List.length_cons, List.cons_append, writeBytes]
    rw [← ih, Nat.add_assoc, Nat.add_comm 1]

/-! ### Raising a fault -/

/-- Raising a fault on the LIN agent answers a state that differs in `FAULT` and `LST` alone (60_exceptions.md R409). -/
theorem raiseLin_eq_next {f : FaultRec} {s t : State} (h : raiseLin f s = .next t) :
    t = { s with lin := { s.lin with lst := .faulted, fault := keepFirst s.lin.fault f } } := by
  cases h; rfl

/-- Raising a fault on the OW agent answers a state that differs in `FAULT` and `OWST` alone (60_exceptions.md R409). -/
theorem raiseOw_eq_next {f : FaultRec} {s t : State} (h : raiseOw f s = .next t) :
    t = { s with ow := { s.ow with owst := .faulted, fault := keepFirst s.ow.fault f } } := by
  cases h; rfl

/-- A stop of a LIN step that answers a next state raised a fault. -/
theorem stopLin_eq_next {st : Stop} {s t : State} (h : stopLin st s = .next t) :
    ∃ f, st = .raise f ∧ t = { s with lin := { s.lin with lst := .faulted, fault := keepFirst s.lin.fault f } } := by
  cases st with
  | raise f => exact ⟨f, rfl, raiseLin_eq_next h⟩
  | stuck f => cases h

/-- A stop of an OW step that answers a next state raised a fault. -/
theorem stopOw_eq_next {st : Stop} {s t : State} (h : stopOw st s = .next t) :
    ∃ f, st = .raise f ∧ t = { s with ow := { s.ow with owst := .faulted, fault := keepFirst s.ow.fault f } } := by
  cases st with
  | raise f => exact ⟨f, rfl, raiseOw_eq_next h⟩
  | stuck f => cases h

/-- The first fault record is kept (60_exceptions.md R404). -/
@[simp] theorem keepFirst_some (g f : FaultRec) : keepFirst (some g) f = some g := rfl

@[simp] theorem keepFirst_none (f : FaultRec) : keepFirst none f = some f := rfl

@[simp] theorem keepFirst_isSome (o : Option FaultRec) (f : FaultRec) : (keepFirst o f).isSome = true := by
  cases o <;> rfl

/-! ### The host port -/

/-- A request to a functional unit is answered or refused X03; either way only the port's record grows. -/
theorem answerTyped_cases (typed : Bool) (sel : Byte) (v : HostValue) (s : State) :
    (typed = true ∧ answerTyped typed sel v s = .next { s with host := s.host ++ [.answered sel v] }) ∨
    (typed = false ∧ answerTyped typed sel v s = .next { s with host := s.host ++ [.refused .badOperand sel] }) := by
  cases typed
  · exact .inr ⟨rfl, rfl⟩
  · exact .inl ⟨rfl, rfl⟩

/-- A request for an operation is accepted in IDLE and refused X02 otherwise (30_encoding.md R110). -/
theorem acceptOw_cases (op : OwOp) (proc : List Stmt) (s : State) :
    (s.ow.owst = .idle ∧ acceptOw op proc s =
      .next { s with ow := { s.ow with op := some op, seq := some ⟨proc, none⟩, owst := .busy } }) ∨
    (s.ow.owst ≠ .idle ∧ acceptOw op proc s = .next { s with host := s.host ++ [.refused .busy (owOpSelector op)] }) := by
  by_cases h : s.ow.owst = .idle
  · exact .inl ⟨h, by simp [acceptOw, h]⟩
  · exact .inr ⟨h, by simp [acceptOw, h, refuse]⟩

/-! ### The environment's answers -/

@[simp] theorem drawBuild_listed (fid : Fid) (a : Option (List Byte)) (rest : List (Option (List Byte))) (e : Env)
    (h : e.build = a :: rest) : drawBuild fid e = (a, { e with build := rest }) := by
  simp [drawBuild, h]

@[simp] theorem drawExpect_listed (fid : Fid) (a : Option Nat) (rest : List (Option Nat)) (e : Env)
    (h : e.expect = a :: rest) : drawExpect fid e = (a, { e with expect := rest }) := by
  simp [drawExpect, h]

@[simp] theorem drawLinTx_listed (a : Bool) (rest : List Bool) (e : Env) (h : e.linTx = a :: rest) :
    drawLinTx e = (a, { e with linTx := rest }) := by
  simp [drawLinTx, h]

@[simp] theorem drawOwTx_listed (a : Bool) (rest : List Bool) (e : Env) (h : e.owTx = a :: rest) :
    drawOwTx e = (a, { e with owTx := rest }) := by
  simp [drawOwTx, h]

/-- Handler call 1 takes from the handler's answers or counts a free one. -/
theorem drawBuild_env (fid : Fid) (e : Env) :
    (drawBuild fid e).2 = { e with build := (drawBuild fid e).2.build, linDraws := (drawBuild fid e).2.linDraws } := by
  unfold drawBuild; split <;> rfl

/-- Handler call 2 takes from the handler's answers or counts a free one. -/
theorem drawExpect_env (fid : Fid) (e : Env) :
    (drawExpect fid e).2 = { e with expect := (drawExpect fid e).2.expect, linDraws := (drawExpect fid e).2.linDraws } := by
  unfold drawExpect; split <;> rfl

/-- A LIN write takes from the outcomes or counts a free one. -/
theorem drawLinTx_env (e : Env) :
    (drawLinTx e).2 = { e with linTx := (drawLinTx e).2.linTx, linDraws := (drawLinTx e).2.linDraws } := by
  unfold drawLinTx; split <;> rfl

/-- A One-Wire write takes from the outcomes or counts a free one. -/
theorem drawOwTx_env (e : Env) :
    (drawOwTx e).2 = { e with owTx := (drawOwTx e).2.owTx, owDraws := (drawOwTx e).2.owDraws } := by
  unfold drawOwTx; split <;> rfl

end Sys2Proof.Machine
end

