-- ==== Sys2Proof/Laws/Engine.lean ====
section
/-! SUPPORT. What the LIN agent's steps leave alone, and what its reads in RECV_CMD and RESPOND give. -/

namespace Sys2Proof.Machine

/-! ### The reads -/

/-- In RECV_CMD with data bytes to come (30_encoding.md R103). -/
theorem cmdPhase_data {l : LinAgent} {cnt len : Nat} (hc : l.cmdCnt = some cnt) (hl : l.cmdLen = some len) (h : cnt < len) :
    cmdPhase l = .ok (.data cnt) := by
  simp [cmdPhase, hc, hl, h, bind, Except.bind]

/-- In RECV_CMD with all data bytes received (30_encoding.md R103). -/
theorem cmdPhase_check {l : LinAgent} {pid : Byte} {d : List Byte} {len : Nat} (hc : l.cmdCnt = some len)
    (hl : l.cmdLen = some len) (hd : readPrefix .linCmdBuf l.cmdBuf len = .ok d) (hp : l.pid = some pid) :
    cmdPhase l = .ok (.check pid d) := by
  simp [cmdPhase, hc, hl, hd, hp, bind, Except.bind]

/-- In RESPOND with a response written (42_lin_engine.md R239). -/
theorem responseFrame_ok {l : LinAgent} {pid : Byte} {d : List Byte} {len : Nat} (hl : l.rspLen = some len)
    (hd : readPrefix .linRspBuf l.rspBuf len = .ok d) (hp : l.pid = some pid) :
    responseFrame l = .ok (d ++ [csumGen pid d]) := by
  simp [responseFrame, hl, hd, hp, bind, Except.bind]

/-! ### The frames -/

/-- The environment's fields that a LIN step may change. -/
def LinEnv (e e' : Env) : Prop :=
  e' = { e with linRx := e'.linRx, linTx := e'.linTx, build := e'.build, expect := e'.expect, linDraws := e'.linDraws }

theorem LinEnv.refl (e : Env) : LinEnv e e := rfl

theorem LinEnv.trans {e₁ e₂ e₃ : Env} (h₁ : LinEnv e₁ e₂) (h₂ : LinEnv e₂ e₃) : LinEnv e₁ e₃ := by
  unfold LinEnv at *; rw [h₂, h₁]

theorem LinEnv.drawBuild {fid : Fid} {e e' : Env} {a : Option (List Byte)} (h : drawBuild fid e = (a, e')) :
    LinEnv e e' := by
  have he := drawBuild_env fid e
  simp only [h] at he
  unfold LinEnv
  rw [he]

theorem LinEnv.drawExpect {fid : Fid} {e e' : Env} {a : Option Nat} (h : drawExpect fid e = (a, e')) : LinEnv e e' := by
  have he := drawExpect_env fid e
  simp only [h] at he
  unfold LinEnv
  rw [he]

theorem LinEnv.drawLinTx {e e' : Env} {a : Bool} (h : drawLinTx e = (a, e')) : LinEnv e e' := by
  have he := drawLinTx_env e
  simp only [h] at he
  unfold LinEnv
  rw [he]

/-- What is left alone by a LIN step that answers `t`: the OW agent, the host port's record, and the environment but for the
LIN inputs. -/
def LinFrame (s t : State) : Prop := t.ow = s.ow ∧ t.host = s.host ∧ LinEnv s.env t.env

theorem LinFrame.of_env {s t : State} {e : Env} (he : LinEnv s.env e) (h : LinFrame { s with env := e } t) : LinFrame s t :=
  ⟨h.1, h.2.1, he.trans h.2.2⟩

theorem raiseLin_frame {f : FaultRec} {s t : State} (h : raiseLin f s = .next t) : LinFrame s t := by
  cases h; exact ⟨rfl, rfl, rfl⟩

theorem failLin_frame {p : Primitive} {s t : State} (h : failLin p s = .next t) : LinFrame s t :=
  raiseLin_frame (s := recordLin (.failed p) s) h

theorem stopLin_frame {st : Stop} {s t : State} (h : stopLin st s = .next t) : LinFrame s t := by
  obtain ⟨f, -, rfl⟩ := stopLin_eq_next h; exact ⟨rfl, rfl, rfl⟩

theorem execEngBreakHit_frame {b : Byte} {s t : State} (h : execEngBreakHit b s = .next t) : LinFrame s t := by
  unfold execEngBreakHit at h; split at h <;> cases h; exact ⟨rfl, rfl, rfl⟩

theorem execEngBreakSkip_frame {b : Byte} {s t : State} (h : execEngBreakSkip b s = .next t) : LinFrame s t := by
  unfold execEngBreakSkip at h; split at h <;> cases h; exact ⟨rfl, rfl, rfl⟩

theorem execEngSyncOk_frame {b : Byte} {s t : State} (h : execEngSyncOk b s = .next t) : LinFrame s t := by
  unfold execEngSyncOk at h; split at h <;> cases h; exact ⟨rfl, rfl, rfl⟩

theorem execEngSyncBad_frame {b : Byte} {s t : State} (h : execEngSyncBad b s = .next t) : LinFrame s t := by
  unfold execEngSyncBad at h; split at h <;> cases h; exact ⟨rfl, rfl, rfl⟩

theorem execEngPidBad_frame {b : Byte} {s t : State} (h : execEngPidBad b s = .next t) : LinFrame s t := by
  unfold execEngPidBad at h; split at h <;> cases h; exact ⟨rfl, rfl, rfl⟩

theorem dispatchPid_frame {b : Byte} {fid : Fid} {s t : State} (h : dispatchPid b fid s = .next t) : LinFrame s t := by
  unfold dispatchPid at h
  split at h
  · next data env hd =>
    refine .of_env (.drawBuild hd) ?_
    split at h
    · exact raiseLin_frame h
    · cases h; exact ⟨rfl, rfl, rfl⟩
  · next env₁ hd =>
    refine .of_env (.drawBuild hd) ?_
    split at h
    · next k env hk =>
      refine .of_env (s := { s with env := env₁ }) (.drawExpect hk) ?_
      split at h
      · exact raiseLin_frame h
      · cases h; exact ⟨rfl, rfl, rfl⟩
    · next env hk =>
      cases h
      exact .of_env (s := { s with env := env₁ }) (.drawExpect hk) ⟨rfl, rfl, rfl⟩

theorem execEngPidOk_frame {b : Byte} {s t : State} (h : execEngPidOk b s = .next t) : LinFrame s t := by
  unfold execEngPidOk at h
  split at h
  · split at h
    · exact dispatchPid_frame h
    · cases h
  · cases h

theorem execEngRespond_frame {s t : State} (h : execEngRespond s = .next t) : LinFrame s t := by
  unfold execEngRespond at h
  split at h
  · split at h
    · exact stopLin_frame h
    · split at h
      · next env hd => exact .of_env (.drawLinTx hd) (failLin_frame h)
      · next env hd => cases h; exact .of_env (.drawLinTx hd) ⟨rfl, rfl, rfl⟩
  · cases h

theorem execEngCmdData_frame {b : Byte} {s t : State} (h : execEngCmdData b s = .next t) : LinFrame s t := by
  unfold execEngCmdData at h
  split at h
  · split at h
    · exact stopLin_frame h
    · split at h <;> cases h
      exact ⟨rfl, rfl, rfl⟩
    · cases h
  · cases h

theorem execEngCmdCkOk_frame {b : Byte} {s t : State} (h : execEngCmdCkOk b s = .next t) : LinFrame s t := by
  unfold execEngCmdCkOk at h
  split at h
  · split at h
    · exact stopLin_frame h
    · cases h
    · split at h <;> cases h
      exact ⟨rfl, rfl, rfl⟩
  · cases h

theorem execEngCmdCkBad_frame {b : Byte} {s t : State} (h : execEngCmdCkBad b s = .next t) : LinFrame s t := by
  unfold execEngCmdCkBad at h
  split at h
  · split at h
    · exact stopLin_frame h
    · cases h
    · split at h <;> cases h
      exact ⟨rfl, rfl, rfl⟩
  · cases h

theorem execEngDrop_frame {s t : State} (h : execEngDrop s = .next t) : LinFrame s t := by
  unfold execEngDrop at h
  split at h
  · split at h
    · exact stopLin_frame h
    · cases h; exact ⟨rfl, rfl, rfl⟩
  · cases h

theorem linTransition_frame {b : Byte} {s t : State} (h : linTransition b s = .next t) : LinFrame s t := by
  unfold linTransition at h
  split at h
  · split at h
    · exact execEngBreakHit_frame h
    · exact execEngBreakSkip_frame h
  · split at h
    · exact execEngSyncOk_frame h
    · exact execEngSyncBad_frame h
  · split at h
    · exact execEngPidOk_frame h
    · exact execEngPidBad_frame h
  · split at h
    · exact stopLin_frame h
    · exact execEngCmdData_frame h
    · split at h
      · exact execEngCmdCkOk_frame h
      · exact execEngCmdCkBad_frame h
  all_goals cases h; exact ⟨rfl, rfl, rfl⟩

/-- A byte that arrives leaves the OW agent and the host port alone (20_memory.md R82). -/
theorem deliver_frame {b : Byte} {s t : State} (h : deliver b s = .next t) : LinFrame s t := by
  unfold deliver at h
  split at h
  · exact linTransition_frame h
  · cases h; exact ⟨rfl, rfl, rfl⟩

end Sys2Proof.Machine
end

