-- ==== Sys2Proof/Laws/PerInstr.lean ====
section
/-! SUPPORT. Laws of every instruction, one lemma per constructor. -/

namespace Sys2Proof.Laws

/-- `CodeFormat`: an instruction is encoded on the interface of the format the opcode table gives its row
(30_encoding.md R103, R105, R108, R111). -/
def CodeFormat.Statement (i : Instr) : Prop := (encode i).format = i.format

theorem CodeFormat.pidParity (id : Byte) : CodeFormat.Statement (.pidParity id) := rfl
theorem CodeFormat.pidEncode (id : Byte) : CodeFormat.Statement (.pidEncode id) := rfl
theorem CodeFormat.pidValidate (b : Byte) : CodeFormat.Statement (.pidValidate b) := rfl
theorem CodeFormat.csumAdd (s b : Byte) : CodeFormat.Statement (.csumAdd s b) := rfl
theorem CodeFormat.csumGen (pid : Byte) (data : List Byte) : CodeFormat.Statement (.csumGen pid data) := rfl
theorem CodeFormat.csumCheck (pid : Byte) (data : List Byte) (c : Byte) : CodeFormat.Statement (.csumCheck pid data c) := rfl
theorem CodeFormat.crc8Update (crc b : Byte) : CodeFormat.Statement (.crc8Update crc b) := rfl
theorem CodeFormat.crc8Check (bytes : List Byte) : CodeFormat.Statement (.crc8Check bytes) := rfl
theorem CodeFormat.dsDecode (sp : List Byte) : CodeFormat.Statement (.dsDecode sp) := rfl
theorem CodeFormat.owReset : CodeFormat.Statement .owReset := rfl
theorem CodeFormat.owWrb (x : Byte) : CodeFormat.Statement (.owWrb x) := rfl
theorem CodeFormat.owRb : CodeFormat.Statement .owRb := rfl
theorem CodeFormat.owWb (x : Byte) : CodeFormat.Statement (.owWb x) := rfl
theorem CodeFormat.dsStart : CodeFormat.Statement .dsStart := rfl
theorem CodeFormat.dsRawTemp : CodeFormat.Statement .dsRawTemp := rfl
theorem CodeFormat.owSlot (bit : Bool) (r : Byte) : CodeFormat.Statement (.owSlot bit r) := rfl
theorem CodeFormat.engBreakHit (b : Byte) : CodeFormat.Statement (.engBreakHit b) := rfl
theorem CodeFormat.engBreakSkip (b : Byte) : CodeFormat.Statement (.engBreakSkip b) := rfl
theorem CodeFormat.engSyncOk (b : Byte) : CodeFormat.Statement (.engSyncOk b) := rfl
theorem CodeFormat.engSyncBad (b : Byte) : CodeFormat.Statement (.engSyncBad b) := rfl
theorem CodeFormat.engPidOk (b : Byte) : CodeFormat.Statement (.engPidOk b) := rfl
theorem CodeFormat.engPidBad (b : Byte) : CodeFormat.Statement (.engPidBad b) := rfl
theorem CodeFormat.engRespond : CodeFormat.Statement .engRespond := rfl
theorem CodeFormat.engCmdData (b : Byte) : CodeFormat.Statement (.engCmdData b) := rfl
theorem CodeFormat.engCmdCkOk (b : Byte) : CodeFormat.Statement (.engCmdCkOk b) := rfl
theorem CodeFormat.engCmdCkBad (b : Byte) : CodeFormat.Statement (.engCmdCkBad b) := rfl
theorem CodeFormat.engDrop : CodeFormat.Statement .engDrop := rfl
theorem CodeFormat.linBreak : CodeFormat.Statement .linBreak := rfl
theorem CodeFormat.linSync : CodeFormat.Statement .linSync := rfl
theorem CodeFormat.linPid (p : BitVec 2) (id : Fid) : CodeFormat.Statement (.linPid p id) := rfl
theorem CodeFormat.linData (d : Byte) : CodeFormat.Statement (.linData d) := rfl
theorem CodeFormat.linChecksum (c : Byte) : CodeFormat.Statement (.linChecksum c) := rfl
theorem CodeFormat.owCharReset : CodeFormat.Statement .owCharReset := rfl
theorem CodeFormat.owCharSlot1 : CodeFormat.Statement .owCharSlot1 := rfl
theorem CodeFormat.owCharSlot0 : CodeFormat.Statement .owCharSlot0 := rfl
theorem CodeFormat.dsCmdSkipRom : CodeFormat.Statement .dsCmdSkipRom := rfl
theorem CodeFormat.dsCmdConvert : CodeFormat.Statement .dsCmdConvert := rfl
theorem CodeFormat.dsCmdReadSp : CodeFormat.Statement .dsCmdReadSp := rfl

end Sys2Proof.Laws
end

