-- ==== Sys2Proof/Laws/Sequencer.lean ====
section
/-! SUPPORT. What the OW agent's step can do: where `settle` leads, what each primitive answers, and what a step leaves alone. -/

namespace Sys2Proof.Machine

/-! ### `settle`, one equation per statement -/

@[simp] theorem andThen_ok (w : OwAgent) (f : OwAgent → Settled) : andThen (.ok w) f = f w := rfl

@[simp] theorem andThen_error (st : Stop) (f : OwAgent → Settled) : andThen (.error st) f = .stop st := rfl

/-- A slot is sent while `OW.BIT` is below 8 (43_onewire.md R303). -/
theorem settle_slots_lt {r : Option Byte} {c : Option DsCmd} {k : List Stmt} {w : OwAgent} {n : Nat} {x : Byte}
    (hb : w.bit = some n) (hx : w.txb = some x) (hn : n < 8) :
    settle r c (.slots :: k) w = .prim (.txSlot (x.getLsbD n)) (.rx :: .store :: .slots :: k) w c := by
  simp [settle, hb, hx, hn]

/-- The slots are over when `OW.BIT` is 8. -/
theorem settle_slots_ge {r : Option Byte} {c : Option DsCmd} {k : List Stmt} {w : OwAgent} {n : Nat}
    (hb : w.bit = some n) (hn : ¬ n < 8) : settle r c (.slots :: k) w = settle r none k w := by
  simp [settle, hb, hn]

/-- Sending a byte begins with the character of its bit 0. -/
theorem settle_load_slots (r : Option Byte) (c : Option DsCmd) (x : Byte) (k : List Stmt) (w : OwAgent) :
    settle r c (.load x :: .slots :: k) w =
      .prim (.txSlot (x.getLsbD 0)) (.rx :: .store :: .slots :: k) (loadByte x w) none := by
  simp [settle]

/-- Sending a command begins with the character of its bit 0, and is known as that command. -/
theorem settle_command_slots (r : Option Byte) (c : Option DsCmd) (d : DsCmd) (k : List Stmt) (w : OwAgent) :
    settle r c (.command d :: .slots :: k) w =
      .prim (.txSlot ((dsCmdByte d).getLsbD 0)) (.rx :: .store :: .slots :: k) (loadByte (dsCmdByte d) w) (some d) := by
  simp [settle]

/-! ### What a step leaves alone -/

/-- The environment's fields that an OW step may change. -/
def OwEnv (e e' : Env) : Prop := e' = { e with owRx := e'.owRx, owTx := e'.owTx, owDraws := e'.owDraws }

theorem OwEnv.refl (e : Env) : OwEnv e e := rfl

theorem OwEnv.trans {e₁ e₂ e₃ : Env} (h₁ : OwEnv e₁ e₂) (h₂ : OwEnv e₂ e₃) : OwEnv e₁ e₃ := by
  unfold OwEnv at *; rw [h₂, h₁]

theorem OwEnv.drawOwTx {e e' : Env} {b : Bool} (h : drawOwTx e = (b, e')) : OwEnv e e' := by
  have he := drawOwTx_env e
  simp only [h] at he
  unfold OwEnv
  rw [he]

/-- What is left alone by an OW step that answers `t`: the LIN agent, and the environment but for the One-Wire inputs. -/
def OwFrame (s t : State) : Prop := t.lin = s.lin ∧ OwEnv s.env t.env

theorem OwFrame.of_env {s t : State} {e : Env} (he : OwEnv s.env e) (h : OwFrame { s with env := e } t) : OwFrame s t :=
  ⟨h.1, he.trans h.2⟩

theorem raiseOw_frame {f : FaultRec} {s t : State} (h : raiseOw f s = .next t) : OwFrame s t := by
  cases h; exact ⟨rfl, rfl⟩

theorem stopOw_frame {st : Stop} {s t : State} (h : stopOw st s = .next t) : OwFrame s t := by
  obtain ⟨f, -, rfl⟩ := stopOw_eq_next h; exact ⟨rfl, rfl⟩

theorem failOw_frame {p : Primitive} {s t : State} (h : failOw p s = .next t) : OwFrame s t :=
  raiseOw_frame (s := recordOw (.failed p) s) h

theorem completePrim_frame {k : List Stmt} {r : Option Byte} {w : OwAgent} {s t : State}
    (h : completePrim k r w s = .next t) : OwFrame s t := by
  unfold completePrim at h
  split at h
  · cases h; exact ⟨rfl, rfl⟩
  · cases h; exact ⟨rfl, rfl⟩
  · exact stopOw_frame (s := recorded w s) h

theorem transmit_frame {c : Byte} {k : List Stmt} {r : Option Byte} {w : OwAgent} {s t : State}
    (h : transmit c k r w s = .next t) : OwFrame s t := by
  unfold transmit at h
  split at h
  · next hd => exact .of_env (.drawOwTx hd) (completePrim_frame h)
  · next env hd => exact .of_env (.drawOwTx hd) (failOw_frame (s := recorded w { s with env := env }) h)

theorem receive_frame {k : List Stmt} {w : OwAgent} {s t : State} (h : receive k w s = .next t) : OwFrame s t := by
  unfold receive at h
  split at h
  · cases h; exact ⟨rfl, rfl⟩
  · next rest _ =>
    exact .of_env (e := { s.env with owRx := rest }) rfl
      (failOw_frame (s := recorded w { s with env := { s.env with owRx := rest } }) h)
  · next c rest _ => exact .of_env (e := { s.env with owRx := rest }) rfl (completePrim_frame h)

theorem runPrim_frame {p : Prim} {k : List Stmt} {r : Option Byte} {w : OwAgent} {s t : State}
    (h : runPrim p k r w s = .next t) : OwFrame s t := by
  cases p with
  | setBaud b => exact completePrim_frame h
  | txReset => exact transmit_frame h
  | rx => exact receive_frame h
  | delay ms => exact completePrim_frame h
  | txSlot bit =>
    simp only [runPrim] at h
    split at h
    · exact transmit_frame h
    · exact raiseOw_frame (s := recorded w s) h

/-- An OW step leaves the LIN agent and its inputs alone (20_memory.md R82). -/
theorem owStep_frame {s t : State} (h : owStep s = .next t) : OwFrame s t := by
  unfold owStep at h
  split at h
  · cases h; exact ⟨rfl, rfl⟩
  · cases h; exact ⟨rfl, rfl⟩
  · split at h
    · exact raiseOw_frame h
    · split at h
      · exact runPrim_frame h
      · cases h; exact ⟨rfl, rfl⟩
      · exact stopOw_frame h

/-! ### When the agent has no step, and several steps -/

/-- An IDLE agent waits for a request (10_state.md R45). -/
theorem owStep_idle {s : State} (h : s.ow.owst = .idle) : owStep s = .next s := by simp [owStep, h]

/-- A FAULTED agent has no step (60_exceptions.md R404). -/
theorem owStep_faulted {s : State} (h : s.ow.owst = .faulted) : owStep s = .next s := by simp [owStep, h]

/-- The step of a BUSY agent whose procedure stands before a primitive. -/
theorem owStep_prim {s : State} {q : Seq} {p : Prim} {k : List Stmt} {w : OwAgent} {c : Option DsCmd}
    (hb : s.ow.owst = .busy) (hq : s.ow.seq = some q) (hp : settle q.r none q.todo s.ow = .prim p k w c) :
    owStep s = runPrim p k q.r w s := by
  simp [owStep, hb, hq, hp]

@[simp] theorem owSteps_zero (s : State) : owSteps 0 s = .next s := rfl

/-- One step and then the others. -/
theorem owSteps_succ {n : Nat} {s t : State} (h : owStep s = .next t) : owSteps (n + 1) s = owSteps n t := by
  simp [owSteps, h]

/-- Steps add up. -/
theorem owSteps_add {m n : Nat} {s t : State} (h : owSteps m s = .next t) : owSteps (m + n) s = owSteps n t := by
  induction m generalizing s with
  | zero => cases h; rw [Nat.zero_add]
  | succ m ih =>
    rw [Nat.succ_add]
    simp only [owSteps] at h ⊢
    split at h
    · next u hu => exact ih h
    · cases h
    · cases h

/-- What the agent's next primitive is, said of its step. -/
theorem owPending_eq_some {w : OwAgent} {p : Prim} {c : Option DsCmd} (h : owPending w = some (p, c)) :
    w.owst = .busy ∧ ∃ q k w', w.seq = some q ∧ settle q.r none q.todo w = .prim p k w' c := by
  unfold owPending at h
  split at h
  · next q hb hq =>
    refine ⟨hb, q, ?_⟩
    split at h
    · next p' k w' c' hs =>
      cases h
      exact ⟨k, w', hq, hs⟩
    · cases h
    · cases h
  all_goals cases h

/-! ### A slot, and a command's first slot -/

theorem andThen_eq_prim {x : Except Stop OwAgent} {f : OwAgent → Settled} {p : Prim} {k : List Stmt} {w' : OwAgent}
    {c : Option DsCmd} (h : andThen x f = .prim p k w' c) : ∃ w, f w = .prim p k w' c := by
  cases x with
  | ok w => exact ⟨w, h⟩
  | error st => cases h

/-- Where `settle` stands before a slot, the readback and its storing follow. -/
theorem settle_txSlot {r : Option Byte} {c d : Option DsCmd} {todo k' : List Stmt} {w w' : OwAgent} {bit : Bool}
    (h : settle r c todo w = .prim (.txSlot bit) k' w' d) : ∃ k, k' = .rx :: .store :: .slots :: k := by
  induction todo generalizing c w with
  | nil => simp only [settle] at h; split at h <;> cases h
  | cons i todo ih =>
    cases i with
    | setBaud b => cases h
    | txReset => cases h
    | rx => cases h
    | delay ms => cases h
    | slots =>
      simp only [settle] at h
      split at h
      · cases h
      · split at h
        · split at h
          · cases h
          · cases h; exact ⟨_, rfl⟩
        · exact ih h
    | presence => exact (andThen_eq_prim h).elim fun _ => ih
    | load x => exact ih h
    | command d => exact ih h
    | store => exact (andThen_eq_prim h).elim fun _ => ih
    | unload => exact (andThen_eq_prim h).elim fun _ => ih
    | idxZero => exact ih h
    | readBytes =>
      simp only [settle] at h
      split at h
      · cases h
      · split at h
        · cases h; exact ⟨_, rfl⟩
        · exact ih h
    | storeByte => exact (andThen_eq_prim h).elim fun _ => ih
    | verdict => exact (andThen_eq_prim h).elim fun _ => ih

/-- A slot's step at 115200 baud whose write completes: the pure statements before it, its character, and its readback next. -/
theorem owStep_txSlot {s : State} {q : Seq} {bit : Bool} {k : List Stmt} {w : OwAgent} {c : Option DsCmd} {e : Env}
    (hb : s.ow.owst = .busy) (hq : s.ow.seq = some q) (hp : settle q.r none q.todo s.ow = .prim (.txSlot bit) k w c)
    (hr : w.baud = .b115200) (hd : drawOwTx s.env = (true, e)) :
    owStep s = .next { s with
      env := e, ow := { w with trace := w.trace ++ [.tx (slotChar bit)], seq := some ⟨k, q.r⟩ } } := by
  obtain ⟨k, rfl⟩ := settle_txSlot hp
  simp [owStep_prim hb hq hp, runPrim, hr, transmit, hd, completePrim, settle]

/-! ### What the pure statements leave alone, and a command's first slot -/

/-- What a pure statement leaves alone: the agent's state, operation, place, rate and fault, and all but diagnostics in the trace. -/
def PureFrame (w w' : OwAgent) : Prop :=
  w'.owst = w.owst ∧ w'.op = w.op ∧ w'.seq = w.seq ∧ w'.baud = w.baud ∧ w'.fault = w.fault ∧ wire w'.trace = wire w.trace

theorem PureFrame.refl (w : OwAgent) : PureFrame w w := ⟨rfl, rfl, rfl, rfl, rfl, rfl⟩

theorem PureFrame.trans {w₁ w₂ w₃ : OwAgent} (h₁ : PureFrame w₁ w₂) (h₂ : PureFrame w₂ w₃) : PureFrame w₁ w₃ := by
  obtain ⟨a₁, b₁, c₁, d₁, e₁, f₁⟩ := h₁
  obtain ⟨a₂, b₂, c₂, d₂, e₂, f₂⟩ := h₂
  exact ⟨a₂.trans a₁, b₂.trans b₁, c₂.trans c₁, d₂.trans d₁, e₂.trans e₁, f₂.trans f₁⟩

/-- A diagnostic is no event of the line. -/
@[simp] theorem wire_diag (t : List OwEvent) (d : DiagRec) : wire (t ++ [.diag d]) = wire t := by simp [wire, OwEvent.onWire]

theorem bind_eq_ok {α β : Type} {x : Except Stop α} {f : α → Except Stop β} {b : β} (h : x >>= f = .ok b) :
    ∃ a, x = .ok a ∧ f a = .ok b := by
  cases x with
  | ok a => exact ⟨a, rfl, h⟩
  | error st => cases h

theorem presenceStmt_frame {r : Option Byte} {w w' : OwAgent} (h : presenceStmt r w = .ok w') : PureFrame w w' := by
  obtain ⟨c, -, h⟩ := bind_eq_ok h
  split at h <;> cases h
  · exact .refl w
  · exact ⟨rfl, rfl, rfl, rfl, rfl, wire_diag ..⟩

theorem storeStmt_frame {r : Option Byte} {w w' : OwAgent} (h : storeStmt r w = .ok w') : PureFrame w w' := by
  obtain ⟨c, -, h⟩ := bind_eq_ok h
  obtain ⟨v, -, h⟩ := bind_eq_ok h
  obtain ⟨n, -, h⟩ := bind_eq_ok h
  cases h; exact .refl w

theorem unloadStmt_frame {w w' : OwAgent} (h : unloadStmt w = .ok w') : PureFrame w w' := by
  obtain ⟨v, -, h⟩ := bind_eq_ok h
  cases h; exact .refl w

theorem storeByteStmt_frame {w w' : OwAgent} (h : storeByteStmt w = .ok w') : PureFrame w w' := by
  obtain ⟨b, -, h⟩ := bind_eq_ok h
  obtain ⟨i, -, h⟩ := bind_eq_ok h
  split at h <;> cases h
  exact .refl w

theorem verdictStmt_frame {w w' : OwAgent} (h : verdictStmt w = .ok w') : PureFrame w w' := by
  obtain ⟨sp, -, h⟩ := bind_eq_ok h
  dsimp only at h
  split at h <;> cases h
  · exact .refl w
  · exact ⟨rfl, rfl, rfl, rfl, rfl, wire_diag ..⟩

/-- A pure statement, and then the way to a primitive. -/
theorem andThen_frame {x : Except Stop OwAgent} {f : OwAgent → Settled} {w w' : OwAgent} {p : Prim} {k : List Stmt}
    {c : Option DsCmd} (h : andThen x f = .prim p k w' c) (hx : ∀ {v}, x = .ok v → PureFrame w v)
    (hf : ∀ {v}, f v = .prim p k w' c → PureFrame v w') : PureFrame w w' := by
  cases x with
  | ok v => exact (hx rfl).trans (hf h)
  | error st => cases h

/-- The pure statements before a primitive leave the agent's state, operation, place, rate, fault and line events alone. -/
theorem settle_frame {r : Option Byte} {c d : Option DsCmd} {todo k : List Stmt} {w w' : OwAgent} {p : Prim}
    (h : settle r c todo w = .prim p k w' d) : PureFrame w w' := by
  induction todo generalizing c w with
  | nil => simp only [settle] at h; split at h <;> cases h
  | cons i todo ih =>
    cases i with
    | setBaud b => cases h; exact .refl _
    | txReset => cases h; exact .refl _
    | rx => cases h; exact .refl _
    | delay ms => cases h; exact .refl _
    | slots =>
      simp only [settle] at h
      split at h
      · cases h
      · split at h
        · split at h <;> cases h
          exact .refl _
        · exact ih h
    | presence => exact andThen_frame h presenceStmt_frame ih
    | load x => exact PureFrame.trans (w₂ := loadByte x w) ⟨rfl, rfl, rfl, rfl, rfl, rfl⟩ (ih h)
    | command d => exact PureFrame.trans (w₂ := loadByte (dsCmdByte d) w) ⟨rfl, rfl, rfl, rfl, rfl, rfl⟩ (ih h)
    | store => exact andThen_frame h storeStmt_frame ih
    | unload => exact andThen_frame h unloadStmt_frame ih
    | idxZero => exact PureFrame.trans (w₂ := { w with idx := some 0 }) ⟨rfl, rfl, rfl, rfl, rfl, rfl⟩ (ih h)
    | readBytes =>
      simp only [settle] at h
      split at h
      · cases h
      · split at h
        · cases h; exact .refl _
        · exact ih h
    | storeByte => exact andThen_frame h storeByteStmt_frame ih
    | verdict => exact andThen_frame h verdictStmt_frame ih

/-- The byte of this command is loaded, and none of its slots is sent. -/
def Begun (d : DsCmd) (w : OwAgent) : Prop := w.txb = some (dsCmdByte d) ∧ w.rxb = some 0 ∧ w.bit = some 0

/-- The mark of a command stands on its first slot alone: its byte is loaded, and the slot is that of bit 0. -/
theorem settle_begun {r : Option Byte} {c : Option DsCmd} {d : DsCmd} {todo k : List Stmt} {w w' : OwAgent} {p : Prim}
    (hc : ∀ d, c = some d → Begun d w) (h : settle r c todo w = .prim p k w' (some d)) :
    Begun d w' ∧ p = .txSlot ((dsCmdByte d).getLsbD 0) := by
  induction todo generalizing c w with
  | nil => simp only [settle] at h; split at h <;> cases h
  | cons i todo ih =>
    have none' : ∀ {v : OwAgent} (d' : DsCmd), (none : Option DsCmd) = some d' → Begun d' v := fun _ h => by cases h
    cases i with
    | setBaud b => cases h
    | txReset => cases h
    | rx => cases h
    | delay ms => cases h
    | slots =>
      simp only [settle] at h
      split at h
      · cases h
      · next n txb hn =>
        split at h
        · split at h
          · cases h
          · next x hx =>
            cases h
            have hb := hc d rfl
            obtain ⟨ht, -, h0⟩ := hb
            simp_all
        · exact ih none' h
    | presence => exact (andThen_eq_prim h).elim fun _ => ih none'
    | load x => exact ih none' h
    | command d' =>
      refine ih (fun e he => ?_) h
      cases he
      exact ⟨rfl, rfl, rfl⟩
    | store => exact (andThen_eq_prim h).elim fun _ => ih none'
    | unload => exact (andThen_eq_prim h).elim fun _ => ih none'
    | idxZero => exact ih none' h
    | readBytes =>
      simp only [settle] at h
      split at h
      · cases h
      · split at h
        · cases h
        · exact ih none' h
    | storeByte => exact (andThen_eq_prim h).elim fun _ => ih none'
    | verdict => exact (andThen_eq_prim h).elim fun _ => ih none'

/-! ### A readback that comes from the transport (60_exceptions.md R418) -/

/-- With no `OwRx` held, there is no readback to give. -/
theorem deliverOw_not_held {i : RxItem} {s : State} (h : owHolds s = false) : deliverOw i s = .next s := by simp [deliverOw, h]

/-- With an `OwRx` held, the readback completes it in the agent's step. -/
theorem deliverOw_held {i : RxItem} {s : State} (h : owHolds s = true) :
    deliverOw i s = owStep { s with env := { s.env with owRx := [i] } } := by
  simp [deliverOw, h]

/-- An agent that holds on an `OwRx` has it next, and no answer is listed. -/
theorem owHolds_eq_true {s : State} (h : owHolds s = true) : (∃ c, owPending s.ow = some (.rx, c)) ∧ s.env.owRx = [] := by
  unfold owHolds at h
  split at h
  · next c hp => exact ⟨⟨c, hp⟩, List.isEmpty_iff.1 h⟩
  · cases h

/-- A readback leaves the LIN agent and its inputs alone. -/
theorem deliverOw_frame {i : RxItem} {s t : State} (h : deliverOw i s = .next t) : OwFrame s t := by
  unfold deliverOw at h
  split at h
  · exact .of_env (e := { s.env with owRx := [i] }) rfl (owStep_frame h)
  · cases h; exact ⟨rfl, rfl⟩

end Sys2Proof.Machine
end

