-- ==== Sys2Proof/Certificates/Slice0/Obligations.lean ====
section
/-! DEFINITION. The statements about the machine, from the spec's numbered rules. Each has its entry in OBLIGATIONS.json. -/

open Sys2Proof Sys2Proof.Machine

/-! ### Encoding -/

/-- Every well-formed instruction is decoded back from its encoding: 30_encoding.md R102, R103, R105, R108, R111 and
43_onewire.md R302, with the model's argument bytes and codes (log entries 2, 3). -/
def Obligations.DecodeEncodeRoundTrip : Prop :=
  ∀ i : Instr, i.wf = true → decode (encode i) = .ok i

/-- What the decoder accepts has arguments of its types and is a row of that interface: 30_encoding.md R103, R105, R108, R111, R112. -/
def Obligations.DecodedHasItsTypes : Prop :=
  ∀ (c : Code) (i : Instr), decode c = .ok i → i.wf = true ∧ i.format = c.format

/-- A host request that the decoder accepts is the encoding of what it is decoded to, so no argument byte is dropped:
30_encoding.md R111 with the model's argument bytes (log entry 2). -/
def Obligations.HostRequestHasOneMeaning : Prop :=
  ∀ (sel : Byte) (args : List Byte) (i : Instr), decode (.host sel args) = .ok i → encode i = .host sel args

/-- Words written out from the spec's tables: 30_encoding.md R103, R105, R108, R111. The argument bytes of a request and their order
(CSUM.CHECK: pid, c, data) are the model's choice, log entry 2; so are the codes of a slot, an engine transition, a LIN byte, a
character and a command, log entry 3. -/
def Obligations.SpecWordsDecode : Prop :=
  decode (.host 0x01 [0x10]) = .ok (.pidParity 0x10) ∧
  decode (.host 0x06 [0x50, 0x73, 0x0A, 0x14, 0x1E]) = .ok (.csumCheck 0x50 [0x0A, 0x14, 0x1E] 0x73) ∧
  decode (.host 0x14 [0x33]) = .ok (.owWb 0x33) ∧
  decode (.host 0x21 []) = .ok .dsRawTemp ∧
  decode (.slot 0xFF 0xFE) = .ok (.owSlot true 0xFE) ∧
  decode (.linStep .readPid (some 0x50)) = .ok (.engPidOk 0x50) ∧
  decode (.linByte .pid 0xC1) = .ok (.linPid 0b11 0x01) ∧
  decode (.owChar .b9600 0xF0) = .ok .owCharReset ∧
  decode (.dsCmd 0xBE) = .ok .dsCmdReadSp

/-! ### The host port -/

/-- A refused request is recorded and nothing else changes; X01 comes before X03, and X03 before X02: 60_exceptions.md R406. An
operand is bad when no well-formed instruction has those arguments (30_encoding.md R112). The argument bytes are log entry 2. -/
def Obligations.RefusalsInOrder : Prop :=
  ∀ (s : State) (sel : Byte) (args : List Byte) (ms : List Move), s.env.moves = .host sel args :: ms →
    (sel ∉ ([0x01, 0x02, 0x03, 0x04, 0x05, 0x06, 0x08, 0x09, 0x0A, 0x10, 0x12, 0x13, 0x14, 0x20, 0x21] : List Byte) →
      step s = .next { movesLeft ms s with host := s.host ++ [.refused .unknownSelector sel] }) ∧
    (sel ∈ ([0x01, 0x02, 0x03, 0x04, 0x05, 0x06, 0x08, 0x09, 0x0A, 0x10, 0x12, 0x13, 0x14, 0x20, 0x21] : List Byte) →
      (∀ i : Instr, i.wf = true → encode i ≠ .host sel args) →
      step s = .next { movesLeft ms s with host := s.host ++ [.refused .badOperand sel] }) ∧
    (sel ∈ ([0x10, 0x12, 0x13, 0x14, 0x20, 0x21] : List Byte) →
      (∃ i : Instr, i.wf = true ∧ encode i = .host sel args) → s.ow.owst ≠ .idle →
      step s = .next { movesLeft ms s with host := s.host ++ [.refused .busy sel] })

/-- A request whose argument is outside its type is refused X03, in any state of the agents: 30_encoding.md R112. -/
def Obligations.BadOperandsRefused : Prop :=
  ∀ (s : State),
    (∀ id : Byte, 64 ≤ id.toNat →
      exec (.pidParity id) s = .next { s with host := s.host ++ [.refused .badOperand 0x01] } ∧
      exec (.pidEncode id) s = .next { s with host := s.host ++ [.refused .badOperand 0x02] }) ∧
    (∀ (pid c : Byte) (data : List Byte), 8 < data.length →
      exec (.csumGen pid data) s = .next { s with host := s.host ++ [.refused .badOperand 0x05] } ∧
      exec (.csumCheck pid data c) s = .next { s with host := s.host ++ [.refused .badOperand 0x06] }) ∧
    (∀ sp : List Byte, sp.length ≠ 9 →
      exec (.dsDecode sp) s = .next { s with host := s.host ++ [.refused .badOperand 0x0A] })

/-- An operation requested in IDLE is accepted: OP, SEQ (the first statement) and OWST are set, and nothing else: 30_encoding.md R110. -/
def Obligations.OperationsAccepted : Prop :=
  ∀ (s : State) (x : Byte), s.ow.owst = .idle →
    let busy (op : OwOp) (proc : List Stmt) : State :=
      { s with ow := { s.ow with op := some op, seq := some ⟨proc, none⟩, owst := .busy } }
    exec .owReset s = .next (busy .reset [.setBaud .b9600, .txReset, .rx, .setBaud .b115200, .presence]) ∧
    exec (.owWrb x) s = .next (busy .wrb [.load x, .slots, .unload]) ∧
    exec .owRb s = .next (busy .rb [.load 0xFF, .slots, .unload]) ∧
    exec (.owWb x) s = .next (busy .wb [.load x, .slots, .unload]) ∧
    exec .dsStart s = .next (busy .start startProc) ∧
    exec .dsRawTemp s = .next (busy .rawTemp rawTempProc)

/-- An operation requested while the agent is BUSY or FAULTED is refused X02 and changes nothing else: 60_exceptions.md R406. -/
def Obligations.OperationsRefusedWhenBusy : Prop :=
  ∀ (s : State) (x : Byte), s.ow.owst ≠ .idle →
    let refused (sel : Byte) : Result := .next { s with host := s.host ++ [.refused .busy sel] }
    exec .owReset s = refused 0x10 ∧ exec (.owWrb x) s = refused 0x12 ∧ exec .owRb s = refused 0x13 ∧
    exec (.owWb x) s = refused 0x14 ∧ exec .dsStart s = refused 0x20 ∧ exec .dsRawTemp s = refused 0x21

/-! ### PID and checksum units -/

/-- The PID unit answers with the parity, the PID byte and the validated id of its argument, and no element changes:
41_lin_pid_checksum.md R200 to R202, whose formula is the spec's general knowledge (log entry 24). -/
def Obligations.PidUnitAnswers : Prop :=
  ∀ (s : State) (id : Fid) (b : Byte),
    let p0 := id.getLsbD 0 ^^ id.getLsbD 1 ^^ id.getLsbD 2 ^^ id.getLsbD 4
    let p1 := !(id.getLsbD 1 ^^ id.getLsbD 3 ^^ id.getLsbD 4 ^^ id.getLsbD 5)
    exec (.pidParity (id.setWidth 8)) s =
      .next { s with host := s.host ++ [.answered 0x01 (.parity (BitVec.ofBool p1 ++ BitVec.ofBool p0))] } ∧
    exec (.pidEncode (id.setWidth 8)) s =
      .next { s with host := s.host ++ [.answered 0x02 (.byte ((BitVec.ofBool p1 ++ BitVec.ofBool p0) ++ id))] } ∧
    (b = (BitVec.ofBool p1 ++ BitVec.ofBool p0) ++ id → exec (.pidValidate b) s =
      .next { s with host := s.host ++ [.answered 0x03 (.validated (some id))] }) ∧
    ((∀ j : Fid, b ≠ pidEncode j) → exec (.pidValidate b) s =
      .next { s with host := s.host ++ [.answered 0x03 (.validated none)] })

/-- A byte is a valid PID exactly when it is the encoding of its id; a break is never one: 41_lin_pid_checksum.md R201, R202
(derived corner cases). -/
def Obligations.ValidPidIffEncoded : Prop :=
  (∀ (b : Byte) (id : Fid), pidValidate b = some id ↔ b = pidEncode id) ∧ pidValidate 0x00 = none

/-- The carry-folded sum adds with the carry folded back, keeps the sum modulo 255 and is 0 only for two zeros:
41_lin_pid_checksum.md R203 (with its derived corner cases). -/
def Obligations.CarryIsFolded : Prop :=
  ∀ (s : State) (x b : Byte), ∃ v : Byte,
    exec (.csumAdd x b) s = .next { s with host := s.host ++ [.answered 0x04 (.byte v)] } ∧
    v.toNat = (if x.toNat + b.toNat > 255 then x.toNat + b.toNat - 255 else x.toNat + b.toNat) ∧
    v.toNat % 255 = (x.toNat + b.toNat) % 255 ∧
    (v = 0 ↔ x = 0 ∧ b = 0) ∧
    (b = 0xFF → x ≠ 0 → v = x)

/-- `CSUM.GEN` answers with the complement of the sum folded over the PID and then the data: 41_lin_pid_checksum.md R204. -/
def Obligations.ChecksumGenerated : Prop :=
  (∀ (s : State) (pid : Byte) (data : List Byte), data.length ≤ 8 →
    exec (.csumGen pid data) s =
      .next { s with host := s.host ++ [.answered 0x05 (.byte (~~~(data.foldl csumAdd pid)))] }) ∧
  (∀ (pid : Byte) (data : List Byte) (b : Byte),
    csumGen pid [] = ~~~pid ∧
    csumGen pid (data ++ [b]) = ~~~(csumAdd (~~~(csumGen pid data)) b) ∧
    (data.foldl csumAdd pid = 0xFF → csumGen pid data = 0x00) ∧
    (data.foldl csumAdd pid ≠ 0 → csumGen pid (data ++ [0x00]) = csumGen pid (data ++ [0xFF])))

/-- `CSUM.CHECK` answers whether the received byte equals the computed checksum; a received 0xFF against a computed 0x00 is a
mismatch: 41_lin_pid_checksum.md R205. -/
def Obligations.ChecksumChecked : Prop :=
  (∀ (s : State) (pid c : Byte) (data : List Byte), data.length ≤ 8 →
    exec (.csumCheck pid data c) s =
      .next { s with host := s.host ++ [.answered 0x06 (.bit (decide (csumGen pid data = c)))] }) ∧
  (∀ (pid : Byte) (data : List Byte), csumGen pid data = 0x00 → csumCheck pid data 0xFF = false)

/-- The checksum in closed form, from the exact sum of the PID and the data: 41_lin_pid_checksum.md R206 (derived). -/
def Obligations.ChecksumClosedForm : Prop :=
  ∀ (pid : Byte) (data : List Byte),
    let total := pid.toNat + (data.map BitVec.toNat).sum
    (csumGen pid data).toNat = 255 - (if total = 0 then 0 else 1 + (total - 1) % 255)

/-- Flipping one bit of one data byte, or of the checksum, of a frame that passes makes it fail: 41_lin_pid_checksum.md R207 (a)
(derived). -/
def Obligations.SingleBitFlipDetected : Prop :=
  ∀ (pid c : Byte) (data : List Byte) (k : Nat), csumCheck pid data c = true → k < 8 →
    csumCheck pid data (c ^^^ (1 <<< k)) = false ∧
    ∀ i : Nat, i < data.length → csumCheck pid (data.modify i (· ^^^ (1 <<< k))) c = false

/-! ### CRC8 and decode units -/

/-- The CRC8 unit answers with the register after the byte, or after all bytes from 0x00: 44_ds18b20_crc8.md R340, R341, whose
algorithm is the spec's general knowledge (log entry 24). No element changes. -/
def Obligations.CrcUnitAnswers : Prop :=
  ∀ (s : State) (crc b : Byte) (bytes : List Byte),
    let round := fun p : Byte × Byte =>
      ((if (p.1 ^^^ p.2) &&& 1 = 1 then (p.1 >>> 1) ^^^ 0x8C else p.1 >>> 1), p.2 >>> 1)
    exec (.crc8Update crc b) s =
      .next { s with host := s.host ++ [.answered 0x08 (.byte
        (round (round (round (round (round (round (round (round (crc, b))))))))).1)] } ∧
    exec (.crc8Check bytes) s = .next { s with host := s.host ++ [.answered 0x09 (.byte (bytes.foldl crc8Update 0))] }

/-- Appending a sequence's CRC8 gives a final register of 0, and changing one byte of a sequence whose final register is 0 makes it
nonzero: 44_ds18b20_crc8.md R342 (a), (b) (derived; the general form of (b) is the spec's general knowledge). -/
def Obligations.CrcLaws : Prop :=
  (∀ d : List Byte, crc8Check (d ++ [crc8Check d]) = 0) ∧
  ∀ (d : List Byte) (i : Nat) (v : Byte), crc8Check d = 0 → i < d.length → d[i]? ≠ some v → crc8Check (d.set i v) ≠ 0

/-- `DS.DECODE` answers bytes 0 and 1, low byte first, as a 16-bit two's-complement integer; bytes 2 to 8 are not read:
44_ds18b20_crc8.md R343. -/
def Obligations.TemperatureDecoded : Prop :=
  ∀ (s : State) (lo hi : Byte) (rest : List Byte), rest.length = 7 → ∃ raw : Raw,
    exec (.dsDecode (lo :: hi :: rest)) s = .next { s with host := s.host ++ [.answered 0x0A (.raw raw)] } ∧
    raw.toInt = (if 256 * hi.toNat + lo.toNat < 0x8000 then (256 * hi.toNat + lo.toNat : Int)
      else (256 * hi.toNat + lo.toNat : Int) - 0x10000)

/-! ### The OW agent -/

/-- `OW.RESET`: the four primitives in their order, the presence verdict and E06, and the value returned: 43_onewire.md R301, R310 and
70_reset_and_hazards.md R506. The criterion is the spec's general knowledge (log entry 24). When the verdict is made, that OP and SEQ
end empty, and that readbacks are in the trace, are log entries 12, 14 and 15. -/
def Obligations.ResetPulseRuns : Prop :=
  ∀ (s : State) (r : Byte) (rx : List RxItem) (tx : List Bool),
    s.ow.owst = .idle → s.env.owRx = .byte r :: rx → s.env.owTx = true :: tx →
    ∃ t, exec .owReset s = .next t ∧
      owSteps 4 t = .next { owInputs rx tx s with
        ow := { s.ow with
          owst := .idle, op := none, seq := none, baud := .b115200, pres := some (decide (r ≠ 0xF0))
          trace := s.ow.trace ++ [.baud .b9600, .tx 0xF0, .rx r, .baud .b115200] ++ absenceEvents r
            ++ [.ret (.bit (decide (r ≠ 0xF0)))] }
        host := s.host ++ [.returned .reset (.bit (decide (r ≠ 0xF0)))] }

/-- `OW.WRB(x)`, `OW.RB` and `OW.WB(x)`: eight slots, bit 0 first, each a character and its readback; the byte observed; the
working elements `⊥` at the end: 43_onewire.md R303 to R305, 20_memory.md R74. When pure statements run, that OP and SEQ end
empty, and that readbacks are in the trace, are log entries 12, 14 and 15. -/
def Obligations.ByteOperationsRun : Prop :=
  ∀ (s : State) (x : Byte) (rs : Fin 8 → Byte) (rx : List RxItem) (tx : List Bool),
    s.ow.owst = .idle → s.ow.baud = .b115200 → s.env.owRx = slotItems rs ++ rx → s.env.owTx = List.replicate 8 true ++ tx →
    let ended (op : OwOp) (sent : Byte) (v : HostValue) : Result := .next { owInputs rx tx s with
      ow := { s.ow with
        owst := .idle, op := none, seq := none, txb := none, rxb := none, bit := none
        result := some (byteOfSlots rs), trace := s.ow.trace ++ slotEvents sent rs ++ [.ret v] }
      host := s.host ++ [.returned op v] }
    (∃ t, exec (.owWrb x) s = .next t ∧ owSteps 16 t = ended .wrb x (.byte (byteOfSlots rs))) ∧
    (∃ t, exec .owRb s = .next t ∧ owSteps 16 t = ended .rb 0xFF (.byte (byteOfSlots rs))) ∧
    (∃ t, exec (.owWb x) s = .next t ∧ owSteps 16 t = ended .wb x .none)

/-- With no device the byte observed is the byte sent and the reset shows no presence; on an open-drain line no sent 0 is observed
as 1: 43_onewire.md R303, R306, R307 (derived). -/
def Obligations.LineLaws : Prop :=
  ∀ (x : Byte) (rs : Fin 8 → Byte),
    ((∀ i : Fin 8, owNoDevice (slotChar (x.getLsbD i)) (rs i)) → byteOfSlots rs = x) ∧
    ((∀ i : Fin 8, owOpenDrain (slotChar (x.getLsbD i)) (rs i)) → byteOfSlots rs &&& ~~~x = 0) ∧
    (∀ r : Byte, owNoDevice Config.owResetChar r → presence r = false)

/-- A byte operation whose first slot finds 9600 baud raises F02 before any character is sent, and nothing else changes:
43_onewire.md R302, 60_exceptions.md R407, R409. That OP and SEQ keep their values is log entry 14. -/
def Obligations.SlotAtWrongRateFaults : Prop :=
  ∀ (s : State) (x : Byte), s.ow.owst = .idle → s.ow.baud = .b9600 →
    ∀ i : Instr, i = .owWrb x ∨ i = .owRb ∨ i = .owWb x →
      ∃ t, exec i s = .next t ∧ owStep t = .next (owFaulted (.slotBaud .b9600) [] t)

/-- `OW.SLOT`: where a slot's character is next at 115200 baud and its write completes, the pair runs: the character, then its
readback; the two steps taken one by one answer the same: 43_onewire.md R300, R302. That one exec makes both steps, and that
readbacks are in the trace, are log entries 22 and 15. -/
def Obligations.SlotPairRuns : Prop :=
  ∀ (s : State) (bit : Bool) (r : Byte) (c : Option DsCmd), s.Inv → owPending s.ow = some (.txSlot bit, c) →
    s.ow.baud = .b115200 → (drawOwTx s.env).1 = true →
    ∃ t, exec (.owSlot bit r) s = .next t ∧
      wire t.ow.trace = wire s.ow.trace ++ [.tx (slotChar bit), .rx r] ∧
      t.ow.baud = .b115200 ∧ t.lin = s.lin ∧ t.env = (drawOwTx s.env).2 ∧
      owSteps 2 { s with env := { s.env with owRx := .byte r :: s.env.owRx } } = .next t

/-- The One-Wire characters: where one is next (a slot's at 115200 baud) and its write completes, its row runs and sends exactly it.
The whole next state is given for the reset character and for every place of a slot in a procedure: at the head, the first of a byte
the host sends, each further one of a byte, and the first of each byte read: 30_encoding.md R105, 43_onewire.md R301 to R304,
44_ds18b20_crc8.md R346. That a character row is the agent's step, and that the pure statements before it run in it, are log entries
21 and 12. -/
def Obligations.CharactersAreSent : Prop :=
  ∀ (s : State) (c : Option DsCmd), (drawOwTx s.env).1 = true →
    let sends (i : Instr) (ch : Byte) : Prop := ∃ t, exec i s = .next t ∧
      wire t.ow.trace = wire s.ow.trace ++ [.tx ch] ∧ t.ow.baud = s.ow.baud ∧ t.ow.fault = none ∧
      t.lin = s.lin ∧ t.host = s.host ∧ t.env = (drawOwTx s.env).2
    let sent (ch : Byte) (q : Seq) : Result := .next { s with
      env := (drawOwTx s.env).2, ow := { s.ow with trace := s.ow.trace ++ [.tx ch], seq := some q } }
    -- the slot with this bit is sent from `w`, the agent after the pure statements before it
    let slotSent (bit : Bool) (w : OwAgent) (k : List Stmt) (r : Option Byte) : Prop :=
      exec (if bit then .owCharSlot1 else .owCharSlot0) s = .next { s with
        env := (drawOwTx s.env).2
        ow := { w with
          trace := s.ow.trace ++ [.tx (if bit then 0xFF else 0x00)], seq := some ⟨.rx :: .store :: .slots :: k, r⟩ } }
    (∀ k r, s.ow.owst = .busy → s.ow.seq = some ⟨.txReset :: .rx :: k, r⟩ →
      exec .owCharReset s = sent 0xF0 ⟨.rx :: k, r⟩) ∧
    (∀ k r n x, s.ow.owst = .busy → s.ow.seq = some ⟨.slots :: k, r⟩ → s.ow.bit = some n → s.ow.txb = some x → n < 8 →
      s.ow.baud = .b115200 →
      (x.getLsbD n = true → exec .owCharSlot1 s = sent 0xFF ⟨.rx :: .store :: .slots :: k, r⟩) ∧
      (x.getLsbD n = false → exec .owCharSlot0 s = sent 0x00 ⟨.rx :: .store :: .slots :: k, r⟩)) ∧
    (s.Inv → owPending s.ow = some (.txSlot true, c) → s.ow.baud = .b115200 → sends .owCharSlot1 0xFF) ∧
    (s.Inv → owPending s.ow = some (.txSlot false, c) → s.ow.baud = .b115200 → sends .owCharSlot0 0x00) ∧
    (s.ow.owst = .busy → s.ow.baud = .b115200 →
      (∀ x k r, s.ow.seq = some ⟨.load x :: .slots :: k, r⟩ →
        slotSent (x.getLsbD 0) { s.ow with txb := some x, rxb := some 0, bit := some 0 } k r) ∧
      (∀ k r n x v, s.ow.seq = some ⟨.store :: .slots :: k, some r⟩ → s.ow.bit = some n → n < 7 → s.ow.txb = some x →
        s.ow.rxb = some v →
        slotSent (x.getLsbD (n + 1)) { s.ow with rxb := some (putBit v (slotBit r) n), bit := some (n + 1) } k (some r)) ∧
      (∀ k r v, s.ow.seq = some ⟨.store :: .slots :: .unload :: .idxZero :: .readBytes :: k, some r⟩ → s.ow.bit = some 7 →
        s.ow.rxb = some v →
        slotSent true
          { s.ow with
            result := some (putBit v (slotBit r) 7), idx := some 0, txb := some 0xFF, rxb := some 0, bit := some 0 }
          (.unload :: .storeByte :: .readBytes :: k) (some r)) ∧
      (∀ k r v i, s.ow.seq = some ⟨.store :: .slots :: .unload :: .storeByte :: .readBytes :: k, some r⟩ → s.ow.bit = some 7 →
        s.ow.rxb = some v → s.ow.idx = some i → i < 8 →
        slotSent true
          { s.ow with
            result := some (putBit v (slotBit r) 7), sp := s.ow.sp.setIfInBounds i (some (putBit v (slotBit r) 7))
            idx := some (i + 1), txb := some 0xFF, rxb := some 0, bit := some 0 }
          (.unload :: .storeByte :: .readBytes :: k) (some r)))

/-- The DS18B20 commands: wherever the first slot of one is next at 115200 baud and its write completes, its row loads the byte and
sends the character of its bit 0, and fifteen more steps send the others, each with its readback, in the order of the spec's table:
30_encoding.md R108. The whole next state is given for the places of a command in a procedure: at the head, behind the presence
verdict of a reset (0xCC), and behind the last readback of the command before (0x44, 0xBE): 44_ds18b20_crc8.md R344, R346. That the
row is the first of the sixteen steps, that the pure statements before it run in it, and that readbacks are in the trace, are log
entries 21, 12 and 15. -/
def Obligations.CommandsAreSent : Prop :=
  ∀ (s : State) (cmd : DsCmd),
    let row : Instr := match cmd with
      | .skipRom => .dsCmdSkipRom
      | .convert => .dsCmdConvert
      | .readSp => .dsCmdReadSp
    let byte : Byte := match cmd with
      | .skipRom => 0xCC
      | .convert => 0x44
      | .readSp => 0xBE
    let chars : List Byte := match cmd with
      | .skipRom => [0x00, 0x00, 0xFF, 0xFF, 0x00, 0x00, 0xFF, 0xFF]
      | .convert => [0x00, 0x00, 0xFF, 0x00, 0x00, 0x00, 0xFF, 0x00]
      | .readSp => [0x00, 0xFF, 0xFF, 0xFF, 0xFF, 0xFF, 0x00, 0xFF]
    -- the command is begun from `w`, the agent after the pure statements before it
    let begun (w : OwAgent) (k : List Stmt) (r : Option Byte) : Prop := exec row s = .next { s with
      env := (drawOwTx s.env).2
      ow := { w with
        txb := some byte, rxb := some 0, bit := some 0, trace := w.trace ++ [.tx 0x00]
        seq := some ⟨.rx :: .store :: .slots :: k, r⟩ } }
    ((drawOwTx s.env).1 = true → owPending s.ow = some (.txSlot false, some cmd) → s.ow.baud = .b115200 →
      ∃ t, exec row s = .next t ∧ t.ow.txb = some byte ∧ t.ow.rxb = some 0 ∧ t.ow.bit = some 0 ∧ t.ow.owst = .busy ∧
        t.ow.op = s.ow.op ∧ t.ow.baud = .b115200 ∧ t.ow.fault = s.ow.fault ∧
        wire t.ow.trace = wire s.ow.trace ++ [.tx 0x00] ∧ t.lin = s.lin ∧ t.host = s.host ∧ t.env = (drawOwTx s.env).2) ∧
    (∀ (rs : Fin 8 → Byte) (rx : List RxItem) (tx : List Bool),
      s.Inv → owPending s.ow = some (.txSlot false, some cmd) → s.ow.baud = .b115200 →
      s.env.owRx = slotItems rs ++ rx → s.env.owTx = List.replicate 8 true ++ tx →
      ∃ t u, exec row s = .next t ∧ owSteps 15 t = .next u ∧
        wire u.ow.trace =
          wire s.ow.trace ++ ((chars.zip (List.ofFn rs)).map fun p => [OwEvent.tx p.1, OwEvent.rx p.2]).flatten ∧
        u.ow.baud = .b115200 ∧ u.lin = s.lin ∧ u.env = { s.env with owRx := rx, owTx := tx }) ∧
    ((drawOwTx s.env).1 = true → s.ow.owst = .busy → s.ow.baud = .b115200 →
      (∀ k r, s.ow.seq = some ⟨.command cmd :: .slots :: k, r⟩ → begun s.ow k r) ∧
      (∀ k r, s.ow.seq = some ⟨.presence :: .command cmd :: .slots :: k, some r⟩ →
        begun { s.ow with pres := some (presence r), trace := s.ow.trace ++ absenceEvents r } k (some r)) ∧
      (∀ k r v, s.ow.seq = some ⟨.store :: .slots :: .unload :: .command cmd :: .slots :: k, some r⟩ → s.ow.bit = some 7 →
        s.ow.rxb = some v → begun { s.ow with result := some (putBit v (slotBit r) 7) } k (some r)))

/-- `DS.START`: reset, 0xCC and 0x44 in 36 steps, whatever the presence and the readbacks: 44_ds18b20_crc8.md R344. When pure
statements run, that OP and SEQ end empty, and that readbacks are in the trace, are log entries 12, 14 and 15. -/
def Obligations.ConversionStarts : Prop :=
  ∀ (s : State) (r : Byte) (a b : Fin 8 → Byte) (rx : List RxItem) (tx : List Bool), s.ow.owst = .idle →
    s.env.owRx = .byte r :: slotItems a ++ slotItems b ++ rx → s.env.owTx = List.replicate 17 true ++ tx →
    ∃ t, exec .dsStart s = .next t ∧
      owSteps 36 t = .next { owInputs rx tx s with
        ow := { s.ow with
          owst := .idle, op := none, seq := none, baud := .b115200, txb := none, rxb := none, bit := none
          pres := some (presence r), result := some (byteOfSlots b)
          trace := s.ow.trace ++ resetEvents r ++ absenceEvents r ++ slotEvents 0xCC a ++ slotEvents 0x44 b ++ [.ret .none] }
        host := s.host ++ [.returned .start .none] }

/-- `DS.RAWTEMP`: start, the delay, reset, 0xCC, 0xBE and nine bytes read in 217 steps; the CRC8 over all nine decides between
the raw temperature and `Err`: 44_ds18b20_crc8.md R346, 10_state.md R43, R44. When pure statements run, that OP and SEQ end
empty, and that readbacks are in the trace, are log entries 12, 14 and 15. -/
def Obligations.TemperatureMeasured : Prop :=
  ∀ (s : State) (r₁ r₂ : Byte) (a b c d : Fin 8 → Byte) (sp : Fin 9 → Fin 8 → Byte) (rx : List RxItem) (tx : List Bool),
    s.ow.owst = .idle →
    s.env.owRx = .byte r₁ :: slotItems a ++ slotItems b ++ .byte r₂ :: slotItems c ++ slotItems d
      ++ (List.ofFn fun i => slotItems (sp i)).flatten ++ rx →
    s.env.owTx = List.replicate 106 true ++ tx →
    let bytes : List Byte := List.ofFn fun i => byteOfSlots (sp i)
    let result : DsResult := if crc8Check bytes = 0 then .ok (dsDecode bytes) else .checksumError
    let verdictEvents : List OwEvent := if crc8Check bytes = 0 then [] else [.diag (.scratchpadCrc (crc8Check bytes))]
    ∃ t, exec .dsRawTemp s = .next t ∧
      owSteps 217 t = .next { owInputs rx tx s with
        ow := { s.ow with
          owst := .idle, op := none, seq := none, baud := .b115200, txb := none, rxb := none, bit := none
          pres := some (presence r₂), result := some (byteOfSlots (sp 8))
          sp := Vector.ofFn fun i => some (byteOfSlots (sp i))
          idx := none, crc := some (crc8Check bytes), dsResult := some result
          trace := s.ow.trace ++ resetEvents r₁ ++ absenceEvents r₁ ++ slotEvents 0xCC a ++ slotEvents 0x44 b ++ [.delay 1000]
            ++ resetEvents r₂ ++ absenceEvents r₂ ++ slotEvents 0xCC c ++ slotEvents 0xBE d
            ++ (List.ofFn fun i => slotEvents 0xFF (sp i)).flatten ++ verdictEvents ++ [.ret (.temp result)] }
        host := s.host ++ [.returned .rawTemp (.temp result)] }

/-- A failed `OwRx` or `OwTx` faults the agent with F03: its record and state, the failed primitive recorded after the
diagnostics of the step, and all else as before; no `Return`: 43_onewire.md R311, 60_exceptions.md R409. That diagnostics
recorded before the failure stay is log entry 13. -/
def Obligations.OneWireFailureFaults : Prop :=
  ∀ (s : State) (p : Prim) (c : Option DsCmd), owPending s.ow = some (p, c) →
    (∀ rest, p = .rx → s.env.owRx = .fail :: rest →
      ∃ es, (es.all fun e => (owDiag e).isSome) = true ∧ owStep s =
        .next (owFaulted (.transportFailure .ow) (es ++ [.failed .owRx]) { s with env := { s.env with owRx := rest } })) ∧
    (∀ e, p = .txReset ∨ ((∃ bit, p = .txSlot bit) ∧ s.ow.baud = .b115200) → drawOwTx s.env = (false, e) →
      ∃ es, (es.all fun e => (owDiag e).isSome) = true ∧ owStep s =
        .next (owFaulted (.transportFailure .ow) (es ++ [.failed .owTx]) { s with env := e }))

/-! ### The LIN agent -/

/-- `ENG.BREAK_HIT`: in SCAN_BREAK a 0x00 is a break; a failed `LinRx` raises F03: 42_lin_engine.md R233. -/
def Obligations.BreakIsFound : Prop :=
  ∀ s : State, s.lin.lst = .scanBreak →
    decode (.linStep .scanBreak (some 0x00)) = .ok (.engBreakHit 0x00) ∧
    exec (.engBreakHit 0x00) s = .next { s with lin := { s.lin with lst := .scanSync } } ∧
    (∀ rest, s.env.linRx = .byte 0x00 :: rest → linTurn s =
      .next { linInput rest s with lin := { s.lin with lst := .scanSync } }) ∧
    (∀ rest, s.env.linRx = .fail :: rest → linTurn s =
      .next (linFaulted (.transportFailure .lin) [.failed .linRx] (linInput rest s)))

/-- `ENG.BREAK_SKIP`: in SCAN_BREAK every other byte is discarded with E01; a failed `LinRx` raises F03: 42_lin_engine.md R234. -/
def Obligations.NoiseIsSkipped : Prop :=
  ∀ (s : State) (b : Byte), s.lin.lst = .scanBreak → b ≠ 0x00 →
    decode (.linStep .scanBreak (some b)) = .ok (.engBreakSkip b) ∧
    exec (.engBreakSkip b) s = .next { s with lin := { s.lin with trace := s.lin.trace ++ [.diag (.invalidBreak b)] } } ∧
    (∀ rest, s.env.linRx = .byte b :: rest → linTurn s =
      .next { linInput rest s with lin := { s.lin with trace := s.lin.trace ++ [.diag (.invalidBreak b)] } }) ∧
    (∀ rest, s.env.linRx = .fail :: rest → linTurn s =
      .next (linFaulted (.transportFailure .lin) [.failed .linRx] (linInput rest s)))

/-- `ENG.SYNC_OK`: in SCAN_SYNC a 0x55 is the sync; a failed `LinRx` raises F03: 42_lin_engine.md R235. -/
def Obligations.SyncIsAccepted : Prop :=
  ∀ s : State, s.lin.lst = .scanSync →
    decode (.linStep .scanSync (some 0x55)) = .ok (.engSyncOk 0x55) ∧
    exec (.engSyncOk 0x55) s = .next { s with lin := { s.lin with lst := .readPid } } ∧
    (∀ rest, s.env.linRx = .byte 0x55 :: rest → linTurn s =
      .next { linInput rest s with lin := { s.lin with lst := .readPid } }) ∧
    (∀ rest, s.env.linRx = .fail :: rest → linTurn s =
      .next (linFaulted (.transportFailure .lin) [.failed .linRx] (linInput rest s)))

/-- `ENG.SYNC_BAD`: in SCAN_SYNC every other byte, 0x00 among them, drops the attempt with E02 and is consumed; a failed `LinRx`
raises F03: 42_lin_engine.md R236. -/
def Obligations.BadSyncDrops : Prop :=
  ∀ (s : State) (b : Byte), s.lin.lst = .scanSync → b ≠ 0x55 →
    decode (.linStep .scanSync (some b)) = .ok (.engSyncBad b) ∧
    exec (.engSyncBad b) s =
      .next { s with lin := { s.lin with lst := .scanBreak, trace := s.lin.trace ++ [.diag (.invalidSync b)] } } ∧
    (∀ rest, s.env.linRx = .byte b :: rest → linTurn s =
      .next { linInput rest s with
        lin := { s.lin with lst := .scanBreak, trace := s.lin.trace ++ [.diag (.invalidSync b)] } }) ∧
    (∀ rest, s.env.linRx = .fail :: rest → linTurn s =
      .next (linFaulted (.transportFailure .lin) [.failed .linRx] (linInput rest s)))

/-- `ENG.PID_BAD`: in READ_PID an invalid PID drops the frame with E03; `LIN.PID` keeps its value, no handler call is made (no
answer is taken), and the byte is consumed; a failed `LinRx` raises F03: 42_lin_engine.md R238. -/
def Obligations.BadPidDrops : Prop :=
  ∀ (s : State) (b : Byte), s.lin.lst = .readPid → pidValidate b = none →
    decode (.linStep .readPid (some b)) = .ok (.engPidBad b) ∧
    exec (.engPidBad b) s =
      .next { s with lin := { s.lin with lst := .scanBreak, trace := s.lin.trace ++ [.diag (.invalidPid b)] } } ∧
    (∀ rest, s.env.linRx = .byte b :: rest → linTurn s =
      .next { linInput rest s with
        lin := { s.lin with lst := .scanBreak, trace := s.lin.trace ++ [.diag (.invalidPid b)] } }) ∧
    (∀ rest, s.env.linRx = .fail :: rest → linTurn s =
      .next (linFaulted (.transportFailure .lin) [.failed .linRx] (linInput rest s)))

/-- `ENG.PID_OK`: a valid PID is accepted and the handler's answers dispatch the frame; call 2 is made only if call 1 gave
nothing; an answer outside the bounds raises F01 and nothing else is written: 42_lin_engine.md R231, R237, 90_conflicts.md C4.
The handler's answers are inputs, log entry 7. -/
def Obligations.PidIsDispatched : Prop :=
  ∀ (s : State) (b : Byte) (fid : Fid), s.lin.lst = .readPid → pidValidate b = some fid →
    (∀ data e, drawBuild fid s.env = (some data, e) →
      (data.length ≤ 8 → ∃ buf : Vector (Option Byte) 8,
        buf.toList = data.map some ++ s.lin.rspBuf.toList.drop data.length ∧
        exec (.engPidOk b) s = .next { s with
          env := e, lin := { s.lin with pid := some b, rspLen := some data.length, rspBuf := buf, lst := .respond } }) ∧
      (8 < data.length → exec (.engPidOk b) s = .next (linFaulted (.handlerContract fid) [] { s with env := e }))) ∧
    (∀ e₁ e, drawBuild fid s.env = (none, e₁) →
      (∀ k, drawExpect fid e₁ = (some k, e) →
        (k ≤ 8 → exec (.engPidOk b) s = .next { s with
          env := e, lin := { s.lin with pid := some b, cmdLen := some k, cmdCnt := some 0, lst := .recvCmd } }) ∧
        (8 < k → exec (.engPidOk b) s = .next (linFaulted (.handlerContract fid) [] { s with env := e }))) ∧
      (drawExpect fid e₁ = (none, e) → exec (.engPidOk b) s = .next { s with
        env := e, lin := { s.lin with pid := some b, lst := .drop } }))

/-- `ENG.RESPOND`: the response and its checksum in one write; the response elements become `⊥`; a failed `LinTx` raises F03 and
writes nothing else: 42_lin_engine.md R239, R245, 60_exceptions.md R409. -/
def Obligations.ResponseIsSent : Prop :=
  ∀ (s : State) (pid : Byte) (d : List Byte), s.lin.lst = .respond → s.lin.pid = some pid → d.length ≤ 8 →
    s.lin.rspLen = some d.length → s.lin.rspBuf.toList.take d.length = d.map some →
    (∀ e, drawLinTx s.env = (true, e) → exec .engRespond s = .next { s with
      env := e
      lin := { s.lin with
        rspLen := none, rspBuf := Vector.replicate 8 none, lst := .scanBreak
        trace := s.lin.trace ++ [.tx (d ++ [csumGen pid d])] } }) ∧
    (∀ e, drawLinTx s.env = (false, e) → exec .engRespond s =
      .next (linFaulted (.transportFailure .lin) [.failed .linTx] { s with env := e }))

/-- `ENG.CMD_DATA`: any byte is taken as data while fewer than CMD_LEN have come: 42_lin_engine.md R240. -/
def Obligations.CommandDataReceived : Prop :=
  ∀ (s : State) (b : Byte) (cnt len : Nat), s.lin.lst = .recvCmd → s.lin.cmdCnt = some cnt → s.lin.cmdLen = some len →
    cnt < len → len ≤ 8 →
    exec (.engCmdData b) s = .next { s with
      lin := { s.lin with cmdBuf := s.lin.cmdBuf.setIfInBounds cnt (some b), cmdCnt := some (cnt + 1) } }

/-- `ENG.CMD_CK_OK`: the checksum matches, the handler gets exactly the data bytes, and the command elements become `⊥`; a failed
`LinRx` raises F03: 42_lin_engine.md R241. -/
def Obligations.GoodCommandIsHandled : Prop :=
  ∀ (s : State) (pid : Byte) (d : List Byte), s.lin.lst = .recvCmd → s.lin.pid = some pid → d.length ≤ 8 →
    s.lin.cmdLen = some d.length → s.lin.cmdCnt = some d.length → s.lin.cmdBuf.toList.take d.length = d.map some →
    let ended : LinAgent := { s.lin with
      cmdLen := none, cmdCnt := none, cmdBuf := Vector.replicate 8 none, lst := .scanBreak
      trace := s.lin.trace ++ [.handleCommand (pidId pid) d] }
    decode (.linStep (.recvCheck (csumGen pid d)) (some (csumGen pid d))) = .ok (.engCmdCkOk (csumGen pid d)) ∧
    exec (.engCmdCkOk (csumGen pid d)) s = .next { s with lin := ended } ∧
    (∀ rest, s.env.linRx = .byte (csumGen pid d) :: rest → linTurn s = .next { linInput rest s with lin := ended }) ∧
    (∀ rest, s.env.linRx = .fail :: rest → linTurn s =
      .next (linFaulted (.transportFailure .lin) [.failed .linRx] (linInput rest s)))

/-- `ENG.CMD_CK_BAD`: the checksum differs, the data is discarded with E05 and the handler is not called; a failed `LinRx` raises F03:
42_lin_engine.md R242. -/
def Obligations.BadCommandIsDiscarded : Prop :=
  ∀ (s : State) (pid b : Byte) (d : List Byte), s.lin.lst = .recvCmd → s.lin.pid = some pid → d.length ≤ 8 →
    s.lin.cmdLen = some d.length → s.lin.cmdCnt = some d.length → s.lin.cmdBuf.toList.take d.length = d.map some →
    b ≠ csumGen pid d →
    let ended : LinAgent := { s.lin with
      cmdLen := none, cmdCnt := none, cmdBuf := Vector.replicate 8 none, lst := .scanBreak
      trace := s.lin.trace ++ [.diag (.linChecksum (pidId pid) (csumGen pid d) b)] }
    decode (.linStep (.recvCheck (csumGen pid d)) (some b)) = .ok (.engCmdCkBad b) ∧
    exec (.engCmdCkBad b) s = .next { s with lin := ended } ∧
    (∀ rest, s.env.linRx = .byte b :: rest → linTurn s = .next { linInput rest s with lin := ended }) ∧
    (∀ rest, s.env.linRx = .fail :: rest → linTurn s =
      .next (linFaulted (.transportFailure .lin) [.failed .linRx] (linInput rest s)))

/-- `ENG.DROP`: an unknown id is recorded with E04 and the engine scans again; nothing is read: 42_lin_engine.md R243. -/
def Obligations.UnknownIdIsDropped : Prop :=
  ∀ (s : State) (pid : Byte), s.lin.lst = .drop → s.lin.pid = some pid →
    decode (.linStep .drop none) = .ok .engDrop ∧
    exec .engDrop s = .next { s with
      lin := { s.lin with lst := .scanBreak, trace := s.lin.trace ++ [.diag (.unknownId (pidId pid))] } } ∧
    linTurn s = exec .engDrop s

/-- A whole response frame: a header whose id the handler answers is followed by the response and its checksum, and the engine scans
again: 42_lin_engine.md R244 (derived), 30_encoding.md R104. -/
def Obligations.ResponseFrameCycle : Prop :=
  ∀ (s : State) (pid : Byte) (data : List Byte) (rest : List RxItem) (bs : List (Option (List Byte))) (tx : List Bool),
    s.lin.lst = .scanBreak → (pidValidate pid).isSome = true → data.length ≤ 8 →
    s.env.linRx = .byte 0x00 :: .byte 0x55 :: .byte pid :: rest → s.env.build = some data :: bs → s.env.linTx = true :: tx →
    linTurns 4 s = .next { s with
      env := { s.env with linRx := rest, build := bs, linTx := tx }
      lin := { s.lin with
        pid := some pid, rspLen := none, rspBuf := Vector.replicate 8 none
        trace := s.lin.trace ++ [.tx (data ++ [csumGen pid data])] } }

/-- A whole command frame: the n+1 bytes after the header are consumed, and the handler is called exactly when the last one is the
checksum: 42_lin_engine.md R244 (derived), 20_memory.md R73. -/
def Obligations.CommandFrameCycle : Prop :=
  ∀ (s : State) (pid c : Byte) (fid : Fid) (d : List Byte) (rest : List RxItem) (bs : List (Option (List Byte)))
    (ns : List (Option Nat)),
    s.lin.lst = .scanBreak → pidValidate pid = some fid → d.length ≤ 8 →
    s.env.linRx = .byte 0x00 :: .byte 0x55 :: .byte pid :: d.map .byte ++ .byte c :: rest →
    s.env.build = none :: bs → s.env.expect = some d.length :: ns →
    linTurns (d.length + 4) s = .next { s with
      env := { s.env with linRx := rest, build := bs, expect := ns }
      lin := { s.lin with
        pid := some pid, cmdLen := none, cmdCnt := none, cmdBuf := Vector.replicate 8 none
        trace := s.lin.trace ++
          [if c = csumGen pid d then .handleCommand fid d else .diag (.linChecksum fid (csumGen pid d) c)] } }

/-- A frame whose id is unknown consumes its header and nothing more: 42_lin_engine.md R247. The handler's answers are inputs,
log entry 7. -/
def Obligations.UnknownIdConsumesNothing : Prop :=
  ∀ (s : State) (pid : Byte) (fid : Fid) (rest : List RxItem) (bs : List (Option (List Byte))) (ns : List (Option Nat)),
    s.lin.lst = .scanBreak → pidValidate pid = some fid →
    s.env.linRx = .byte 0x00 :: .byte 0x55 :: .byte pid :: rest → s.env.build = none :: bs → s.env.expect = none :: ns →
    linTurns 4 s = .next { s with
      env := { s.env with linRx := rest, build := bs, expect := ns }
      lin := { s.lin with pid := some pid, trace := s.lin.trace ++ [.diag (.unknownId fid)] } }

/-- A byte consumed by a failed sync or PID test is gone: it is not tested again as a break: 42_lin_engine.md R246. -/
def Obligations.FailedByteIsGone : Prop :=
  ∀ (s : State) (rest : List RxItem), s.lin.lst = .scanBreak →
    (∀ pid : Byte, (pidValidate pid).isSome = true →
      s.env.linRx = .byte 0x00 :: .byte 0x00 :: .byte 0x55 :: .byte pid :: rest →
      linTurns 4 s = .next { linInput rest s with
        lin := { s.lin with
          trace := s.lin.trace ++ [.diag (.invalidSync 0x00), .diag (.invalidBreak 0x55), .diag (.invalidBreak pid)] } }) ∧
    (s.env.linRx = .byte 0x00 :: .byte 0x55 :: .byte 0x00 :: .byte 0x55 :: rest →
      linTurns 4 s = .next { linInput rest s with
        lin := { s.lin with trace := s.lin.trace ++ [.diag (.invalidPid 0x00), .diag (.invalidBreak 0x55)] } })

/-- A byte arriving on the LIN bus. Where the LIN agent holds, each field acts as the transition it selects; where it does not, the
transport keeps the byte for later: 30_encoding.md R100 to R103, 10_state.md R50 (log entry 20). -/
def Obligations.LinBytesAct : Prop :=
  ∀ (s : State),
    (linHolds s = true →
      (s.lin.lst = .scanBreak → exec .linBreak s = .next { s with lin := { s.lin with lst := .scanSync } }) ∧
      (s.lin.lst = .scanSync → exec .linSync s = .next { s with lin := { s.lin with lst := .readPid } }) ∧
      (∀ (id : Fid), s.lin.lst = .readPid →
        exec (.linPid (pidParity id) id) s = exec (.engPidOk (pidEncode id)) s ∧
        (∀ data e, drawBuild id s.env = (some data, e) → data.length ≤ 8 →
          ∃ t, exec (.linPid (pidParity id) id) s = .next t ∧ t.lin.lst = .respond ∧ t.lin.pid = some (pidEncode id) ∧
            t.lin.rspLen = some data.length ∧ t.lin.rspBuf.toList.take data.length = data.map some ∧
            t.ow = s.ow ∧ t.host = s.host ∧ t.env = e)) ∧
      (∀ (b : Byte) (cnt len : Nat), s.lin.lst = .recvCmd → s.lin.cmdCnt = some cnt → s.lin.cmdLen = some len →
        cnt < len → len ≤ 8 → exec (.linData b) s = .next { s with
          lin := { s.lin with cmdBuf := s.lin.cmdBuf.setIfInBounds cnt (some b), cmdCnt := some (cnt + 1) } }) ∧
      (∀ (pid c : Byte) (d : List Byte), s.lin.lst = .recvCmd → s.lin.pid = some pid → d.length ≤ 8 →
        s.lin.cmdLen = some d.length → s.lin.cmdCnt = some d.length → s.lin.cmdBuf.toList.take d.length = d.map some →
        exec (.linChecksum c) s = .next { s with
          lin := { s.lin with
            cmdLen := none, cmdCnt := none, cmdBuf := Vector.replicate 8 none, lst := .scanBreak
            trace := s.lin.trace ++ [if c = csumGen pid d then .handleCommand (pidId pid) d
              else .diag (.linChecksum (pidId pid) (csumGen pid d) c)] } })) ∧
    (linHolds s = false → ∀ (b : Byte) (i : Instr),
      (i = .linBreak ∧ b = 0x00) ∨ (i = .linSync ∧ b = 0x55) ∨ i = .linData b ∨ i = .linChecksum b ∨
        (∃ p id, i = .linPid p id ∧ b = pidByte p id) →
      exec i s = .next { s with env := { s.env with linRx := s.env.linRx ++ [.byte b] } })

/-- The LIN agent's turn with a byte to read makes exactly the transition that the table of 30_encoding.md R103 selects. -/
def Obligations.TransitionIsSelected : Prop :=
  ∀ (s : State) (b : Byte) (rest : List RxItem), s.env.linRx = .byte b :: rest →
    (s.lin.lst = .scanBreak →
      linTurn s = exec (if b = 0x00 then .engBreakHit b else .engBreakSkip b) (linInput rest s)) ∧
    (s.lin.lst = .scanSync →
      linTurn s = exec (if b = 0x55 then .engSyncOk b else .engSyncBad b) (linInput rest s)) ∧
    (s.lin.lst = .readPid →
      linTurn s = exec (if (pidValidate b).isSome then .engPidOk b else .engPidBad b) (linInput rest s)) ∧
    (∀ cnt len, s.lin.lst = .recvCmd → s.lin.cmdCnt = some cnt → s.lin.cmdLen = some len →
      (cnt < len → linTurn s = exec (.engCmdData b) (linInput rest s)) ∧
      (∀ pid d, cnt = len → s.lin.pid = some pid → len ≤ 8 → s.lin.cmdBuf.toList.take len = d.map some → d.length = len →
        linTurn s = exec (if b = csumGen pid d then .engCmdCkOk b else .engCmdCkBad b) (linInput rest s)))

/-- A failed `LinRx` (in any reading state) or `LinTx` raises F03: the record and FAULTED, the failed primitive recorded, and all else
as before, and the agent makes no further step: 42_lin_engine.md R245. -/
def Obligations.LinFailureFaults : Prop :=
  ∀ (s : State),
    (∀ rest, s.lin.lst ∈ [Lst.scanBreak, .scanSync, .readPid, .recvCmd] → s.env.linRx = .fail :: rest →
      linTurn s = .next (linFaulted (.transportFailure .lin) [.failed .linRx] (linInput rest s))) ∧
    (∀ frame e, s.lin.lst = .respond → responseFrame s.lin = .ok frame → drawLinTx s.env = (false, e) →
      linTurn s = .next (linFaulted (.transportFailure .lin) [.failed .linTx] { s with env := e })) ∧
    (s.lin.lst = .faulted → linTurn s = .next s)

/-! ### Steps, holds, resets -/

/-- A step runs the instruction its move selects: the decoded host request, the LIN agent's transition on the byte it reads, the
OW agent's character or command, the arriving LIN byte. Around it, the move is taken off the list, and the LIN byte off the
stream. The list of moves is log entry 9. -/
def Obligations.StepRunsSelected : Prop :=
  ∀ (s : State) (ms : List Move) (i : Instr),
    (∀ sel args, s.env.moves = .host sel args :: ms → decode (.host sel args) = .ok i → step s = exec i (movesLeft ms s)) ∧
    (∀ sel b rest, s.env.moves = .lin :: ms → s.env.linRx = .byte b :: rest →
      s.lin.lst ∈ [Lst.scanBreak, .scanSync, .readPid, .recvCmd] →
      linSelect s.lin = .ok sel → decode (.linStep sel (some b)) = .ok i →
      step s = exec i (linInput rest (movesLeft ms s))) ∧
    (s.env.moves = .lin :: ms → (s.lin.lst = .respond ∧ i = .engRespond ∨ s.lin.lst = .drop ∧ i = .engDrop) →
      step s = exec i (movesLeft ms s)) ∧
    (s.env.moves = .ow :: ms → owFetch s.ow = some i → step s = exec i (movesLeft ms s)) ∧
    (s.env.moves = .ow :: ms → owFetch s.ow = none → step s = owStep (movesLeft ms s)) ∧
    (∀ f b, s.env.moves = .linByte b :: ms → linField s = some f → decode (.linByte f b) = .ok i →
      step s = exec i (movesLeft ms s))

/-- An agent with nothing to do changes nothing: the LIN agent with no byte available, the OW agent in IDLE or with no readback,
and either in FAULTED: 00_scope.md R13, 42_lin_engine.md R250, 10_state.md R45, 60_exceptions.md R404. That such a turn is a
step is log entry 23. -/
def Obligations.HoldsChangeNothing : Prop :=
  ∀ (s : State),
    (linHolds s = true → linTurn s = .next s) ∧ (s.lin.lst = .faulted → linTurn s = .next s) ∧
    (s.ow.owst = .idle → owTurn s = .next s) ∧ (s.ow.owst = .faulted → owTurn s = .next s) ∧
    (∀ c, owPending s.ow = some (.rx, c) → s.env.owRx = [] → owStep s = .next s)

/-- The state after reset: 10_state.md R52. -/
def Obligations.ResetValues : Prop :=
  State.reset.lin.lst = .scanBreak ∧ State.reset.ow.owst = .idle ∧ State.reset.ow.baud = Config.owBaudInit ∧
  State.reset.lin.fault = none ∧ State.reset.ow.fault = none ∧
  State.reset.lin.pid = none ∧ State.reset.lin.rspLen = none ∧ State.reset.lin.cmdLen = none ∧ State.reset.lin.cmdCnt = none ∧
  (∀ i : Fin 8, State.reset.lin.rspBuf[i] = none ∧ State.reset.lin.cmdBuf[i] = none) ∧
  State.reset.ow.op = none ∧ State.reset.ow.seq = none ∧ State.reset.ow.txb = none ∧ State.reset.ow.rxb = none ∧
  State.reset.ow.bit = none ∧ State.reset.ow.pres = none ∧ State.reset.ow.result = none ∧
  (∀ i : Fin 9, State.reset.ow.sp[i] = none) ∧
  State.reset.ow.idx = none ∧ State.reset.ow.crc = none ∧ State.reset.ow.dsResult = none

/-- The reset of an agent writes that agent's elements alone; the block's reset writes both and empties the records, and does
not reach the transports, the handler or the devices: 70_reset_and_hazards.md R500 to R502. That an agent's trace goes on over
its own reset is log entry 16, that a reset may come in any state is log entry 27, and that the One-Wire answers listed stay as they
are, with a character in flight too, is log entry 26. -/
def Obligations.ResetsOfTheAgents : Prop :=
  ∀ (s : State) (ms : List Move),
    (s.env.moves = .restartLin :: ms → step s = .next { movesLeft ms s with
      lin := { State.reset.lin with trace := s.lin.trace } }) ∧
    (s.env.moves = .restartOw :: ms → step s = .next { movesLeft ms s with
      ow := { State.reset.ow with trace := s.ow.trace } }) ∧
    (s.env.moves = .resetBlock :: ms → step s = .next { State.reset with env := (movesLeft ms s).env })

/-! ### Frames and whole-machine rules -/

/-- The frame of the LIN rows (transitions and bytes): the OW agent, the host port's record and every input that is not LIN's are
unchanged: 20_memory.md R82, 60_exceptions.md R408. -/
def Obligations.LinRowsFrame : Prop :=
  ∀ (i : Instr) (s t : State), i.format = .linStep ∨ i.format = .linByte → exec i s = .next t →
    t.ow = s.ow ∧ t.host = s.host ∧ t.env.moves = s.env.moves ∧ t.env.owRx = s.env.owRx ∧ t.env.owTx = s.env.owTx ∧
    t.env.owDraws = s.env.owDraws ∧ t.env.turnDraws = s.env.turnDraws

/-- The frame of the One-Wire rows (slot, characters, commands): the LIN agent and every input that is not the OW agent's are unchanged,
and so is the rate, for a slot or a character: 20_memory.md R82, 60_exceptions.md R408, 43_onewire.md R303. -/
def Obligations.OneWireRowsFrame : Prop :=
  ∀ (i : Instr) (s t : State), i.format = .internal ∨ i.format = .owChar ∨ i.format = .dsCmd → exec i s = .next t →
    t.lin = s.lin ∧ t.env.moves = s.env.moves ∧ t.env.linRx = s.env.linRx ∧ t.env.linTx = s.env.linTx ∧
    t.env.build = s.env.build ∧ t.env.expect = s.env.expect ∧ t.env.linDraws = s.env.linDraws ∧
    t.env.turnDraws = s.env.turnDraws ∧ (i.format ≠ .dsCmd → t.ow.baud = s.ow.baud)

/-- The frame of the host requests: each answers a next state, accepted, answered or refused; the LIN agent, the inputs and the OW
agent's other elements are unchanged; where the OW agent is unchanged, the host record gains one entry, and where it is not, the
request was accepted and the record is unchanged: 30_encoding.md R110. That a refusal (X02, X03) is a next state is log entry 17. -/
def Obligations.HostRowsFrame : Prop :=
  ∀ (i : Instr) (s : State), i.format = .hostReq → ∃ t, exec i s = .next t ∧
    t.lin = s.lin ∧ t.env = s.env ∧
    t.ow = { s.ow with owst := t.ow.owst, op := t.ow.op, seq := t.ow.seq } ∧
    ((t.ow = s.ow ∧ ∃ e, t.host = s.host ++ [e]) ∨ (s.ow.owst = .idle ∧ t.ow.owst = .busy ∧ t.host = s.host))

/-- The two agents do not interfere: their turns commute: 20_memory.md R82, 10_state.md R30. Separate draw counters are log
entry 11. -/
def Obligations.AgentTurnsCommute : Prop :=
  ∀ s t u : State, linTurn s = .next t → owTurn s = .next u → ∃ v, owTurn t = .next v ∧ linTurn u = .next v

/-- The state after reset meets the invariant. -/
def Obligations.InvariantAtReset : Prop := State.reset.Inv

/-- Every step keeps the invariant: `LIN.PID` is a valid PID, the buffers and counts fit their engine state, a procedure never reads an
unwritten element (so F04 is never raised), and FAULTED goes with a record: 10_state.md R36 to R38, R48, 60_exceptions.md R404, R405. -/
def Obligations.InvariantIsKept : Prop :=
  ∀ s t : State, s.Inv → step s = .next t → t.Inv

/-- The machine never stops: in a state that meets the invariant, every step answers a next state: 70_reset_and_hazards.md R510.
That spec faults and refusals are next states is log entry 17. -/
def Obligations.StepAlwaysAnswers : Prop :=
  ∀ s : State, s.Inv → ∃ t, step s = .next t

/-- A faulted agent stays as it is until it is reset: 60_exceptions.md R404, R410. -/
def Obligations.FaultsAreSticky : Prop :=
  ∀ s t : State, step s = .next t →
    (s.lin.lst = .faulted → s.env.moves.head? ≠ some .restartLin → s.env.moves.head? ≠ some .resetBlock → t.lin = s.lin) ∧
    (s.ow.owst = .faulted → s.env.moves.head? ≠ some .restartOw → s.env.moves.head? ≠ some .resetBlock → t.ow = s.ow)

/-- The records only grow, but for the block's reset: 10_state.md R51, 60_exceptions.md R416. That a trace goes on over its
agent's own reset is log entry 16. -/
def Obligations.RecordsOnlyGrow : Prop :=
  ∀ s t : State, step s = .next t → s.env.moves.head? ≠ some .resetBlock →
    s.lin.trace <+: t.lin.trace ∧ s.ow.trace <+: t.ow.trace ∧ s.host <+: t.host

/-- Of the events a step adds to the LIN trace, at most one, a transmission is made only in RESPOND, of the response held and its
checksum, and a handler's third call only in RECV_CMD, with the command held, when the byte read is its checksum:
42_lin_engine.md R251 (derived), R239, R241, 60_exceptions.md R407. -/
def Obligations.OutputsOnlyWhenDue : Prop :=
  ∀ (s t : State) (es : List LinEvent), step s = .next t → t.lin.trace = s.lin.trace ++ es →
    es.length ≤ 1 ∧
    (∀ bytes, .tx bytes ∈ es →
      s.lin.lst = .respond ∧ ∃ pid d, s.lin.pid = some pid ∧ s.lin.rspLen = some d.length ∧
        s.lin.rspBuf.toList.take d.length = d.map some ∧ bytes = d ++ [csumGen pid d]) ∧
    (∀ fid d, .handleCommand fid d ∈ es →
      s.lin.lst = .recvCmd ∧ s.lin.cmdLen = some d.length ∧ s.lin.cmdCnt = some d.length ∧
      s.lin.cmdBuf.toList.take d.length = d.map some ∧
      ∃ pid, s.lin.pid = some pid ∧ fid = pidId pid ∧
        ((∃ rest, s.env.linRx = .byte (csumGen pid d) :: rest) ∨
          s.env.moves.head? = some (.linByte (csumGen pid d))))
end

