-- ==== Sys2Proof/Tests/Slice0.lean ====
section
/-! SUPPORT. Tests on the spec's own examples and vectors (95_test_vectors.md and the rules' examples), the smoke test of
`WellFormed`, and, for every obligation with hypotheses, a state and operands that meet them. -/

namespace Sys2Proof.Tests

open Sys2Proof.Machine

/-! ### Helpers -/

/-- The outcome is a next state with this property. -/
def nextHas (r : Result) (p : State → Bool) : Bool :=
  match r with
  | .next t => p t
  | .fault _ => false
  | .refused _ => false

/-- The decoder's answer is this instruction. -/
def decodesTo (c : Code) (i : Instr) : Bool :=
  match decode c with
  | .ok j => decide (j = i)
  | .error _ => false

/-- The decoder rejects with this name. -/
def rejects (c : Code) (e : DecodeError) : Bool :=
  match decode c with
  | .ok _ => false
  | .error f => decide (f = e)

/-- The reset state with the One-Wire rate known. -/
def rest (b : Baud) : State := { State.reset with ow := { OwAgent.reset with baud := b } }

/-- The LIN agent in an engine state. -/
def linIn (l : Lst) : State := { rest .b115200 with lin := { LinAgent.reset with lst := l } }

/-- The LIN agent in RECV_CMD with these data bytes received of `len`. -/
def recv (pid : Byte) (d : List Byte) (len : Nat) : State :=
  { rest .b115200 with lin := { LinAgent.reset with
      lst := .recvCmd, pid := some pid, cmdLen := some len, cmdCnt := some d.length
      cmdBuf := writeBytes (Vector.replicate 8 none) 0 d } }

/-- The LIN agent in RESPOND with this response. -/
def respond (pid : Byte) (d : List Byte) : State :=
  { rest .b115200 with lin := { LinAgent.reset with
      lst := .respond, pid := some pid, rspLen := some d.length, rspBuf := writeBytes (Vector.replicate 8 none) 0 d } }

/-- The LIN agent in DROP. -/
def dropping (pid : Byte) : State := { linIn .drop with lin := { LinAgent.reset with lst := .drop, pid := some pid } }

/-- A state whose LIN transport holds these items. -/
def hears (s : State) (rx : List RxItem) : State := { s with env := { s.env with linRx := rx } }

/-- A state whose handler gives these answers. -/
def handled (s : State) (r : Option (List Byte)) (n : Option Nat) : State :=
  { s with env := { s.env with build := [r], expect := [n] } }

/-- A state whose LIN write has this outcome. -/
def linTxIs (ok : Bool) (s : State) : State := { s with env := { s.env with linTx := [ok] } }

/-- A state whose One-Wire transport holds these readbacks and whose writes have these outcomes. -/
def line (s : State) (rx : List RxItem) (tx : List Bool) : State := { s with env := { s.env with owRx := rx, owTx := tx } }

/-- A state with one move listed. -/
def moves (m : Move) (s : State) : State := { s with env := { s.env with moves := [m] } }

/-- The OW agent in an operation at 115200 baud, at this place of its procedure. -/
def within (op : OwOp) (todo : List Stmt) (r : Option Byte) : State :=
  { rest .b115200 with ow := { (rest .b115200).ow with owst := .busy, op := some op, seq := some ⟨todo, r⟩ } }

/-- The OW agent sending slot `n` of a byte. -/
def sending (x : Byte) (n : Nat) : State :=
  { within .wrb [.slots, .unload] none with
    ow := { (within .wrb [.slots, .unload] none).ow with txb := some x, rxb := some 0, bit := some n }
    env := { Env.reset with owTx := [true] } }

/-- An agent that has faulted. -/
def owDown : State :=
  { rest .b115200 with ow := { (rest .b115200).ow with owst := .faulted, fault := some (.transportFailure .ow) } }
def linDown : State :=
  { rest .b115200 with lin := { LinAgent.reset with lst := .faulted, fault := some (.transportFailure .lin) } }

/-- The readbacks of a device that lets every slot stand as it was sent. -/
def echo (x : Byte) : Fin 8 → Byte := fun i => slotChar (x.getLsbD i)

/-! ### WellFormed refuses each ill-formed term -/

theorem test_wf_refuses_ill_formed :
    Instr.wf (.pidParity 0x40) = false ∧ Instr.wf (.pidEncode 0x40) = false ∧
    Instr.wf (.csumGen 0x80 (List.replicate 9 0)) = false ∧ Instr.wf (.csumCheck 0x80 (List.replicate 9 0) 0) = false ∧
    Instr.wf (.dsDecode (List.replicate 8 0)) = false ∧ Instr.wf (.dsDecode (List.replicate 10 0)) = false ∧
    Instr.wf (.engBreakHit 0x01) = false ∧ Instr.wf (.engBreakSkip 0x00) = false ∧
    Instr.wf (.engSyncOk 0x54) = false ∧ Instr.wf (.engSyncBad 0x55) = false ∧
    Instr.wf (.engPidOk 0x10) = false ∧ Instr.wf (.engPidBad 0x50) = false ∧ Instr.wf (.linPid 0b00 0x10) = false := by
  decide

theorem test_wf_accepts_bounds :
    Instr.wf (.pidParity 0x3F) = true ∧ Instr.wf (.pidEncode 0x3F) = true ∧
    Instr.wf (.csumGen 0x80 (List.replicate 8 0)) = true ∧ Instr.wf (.csumCheck 0x80 (List.replicate 8 0) 0) = true ∧
    Instr.wf (.dsDecode (List.replicate 9 0)) = true ∧ Instr.wf (.engPidOk 0x50) = true ∧ Instr.wf (.engPidBad 0x10) = true ∧
    Instr.wf (.linPid 0b01 0x10) = true := by
  decide

/-! ### Decoding: every row from a word of the spec's encoding of it -/

/-- Host selectors, 30_encoding.md R111. -/
theorem test_decode_units :
    decodesTo (.host 0x01 [0x3F]) (.pidParity 0x3F) ∧ decodesTo (.host 0x02 [0x10]) (.pidEncode 0x10) ∧
    decodesTo (.host 0x03 [0x50]) (.pidValidate 0x50) ∧ decodesTo (.host 0x04 [0xC1, 0x80]) (.csumAdd 0xC1 0x80) ∧
    decodesTo (.host 0x05 [0x50, 0x0A, 0x14, 0x1E]) (.csumGen 0x50 [0x0A, 0x14, 0x1E]) ∧
    decodesTo (.host 0x06 [0x80, 0x7F]) (.csumCheck 0x80 [] 0x7F) ∧
    decodesTo (.host 0x08 [0x4F, 0x01]) (.crc8Update 0x4F 0x01) ∧ decodesTo (.host 0x09 []) (.crc8Check []) ∧
    decodesTo (.host 0x0A [0x91, 0x01, 0x4B, 0x46, 0x7F, 0xFF, 0x0C, 0x10, 0x70])
      (.dsDecode [0x91, 0x01, 0x4B, 0x46, 0x7F, 0xFF, 0x0C, 0x10, 0x70]) := by
  decide

theorem test_decode_operations :
    decodesTo (.host 0x10 []) .owReset ∧ decodesTo (.host 0x12 [0xA5]) (.owWrb 0xA5) ∧ decodesTo (.host 0x13 []) .owRb ∧
    decodesTo (.host 0x14 [0x33]) (.owWb 0x33) ∧ decodesTo (.host 0x20 []) .dsStart ∧ decodesTo (.host 0x21 []) .dsRawTemp := by
  decide

/-- Reserved selectors and bad operands, 30_encoding.md R112, R113, 95_test_vectors.md V2.9. -/
theorem test_decode_refuses_requests :
    rejects (.host 0x00 []) (.unknownSelector 0x00) ∧ rejects (.host 0x07 [0, 0, 0]) (.unknownSelector 0x07) ∧
    rejects (.host 0x11 []) (.unknownSelector 0x11) ∧ rejects (.host 0x22 []) (.unknownSelector 0x22) ∧
    rejects (.host 0x02 [0x40]) (.badOperand 0x02) ∧ rejects (.host 0x05 (List.replicate 10 0)) (.badOperand 0x05) ∧
    rejects (.host 0x0A (List.replicate 8 0)) (.badOperand 0x0A) ∧ rejects (.host 0x10 [0]) (.badOperand 0x10) := by
  decide

/-- Slot characters, 30_encoding.md R105. -/
theorem test_decode_slot :
    decodesTo (.slot 0xFF 0xFE) (.owSlot true 0xFE) ∧ decodesTo (.slot 0x00 0x00) (.owSlot false 0x00) ∧
    rejects (.slot 0xF0 0xF0) (.notASlot 0xF0) := by
  decide

/-- The table of 30_encoding.md R103. -/
theorem test_decode_transitions :
    decodesTo (.linStep .scanBreak (some 0x00)) (.engBreakHit 0x00) ∧
    decodesTo (.linStep .scanBreak (some 0x3C)) (.engBreakSkip 0x3C) ∧
    decodesTo (.linStep .scanSync (some 0x55)) (.engSyncOk 0x55) ∧
    decodesTo (.linStep .scanSync (some 0x00)) (.engSyncBad 0x00) ∧
    decodesTo (.linStep .readPid (some 0x50)) (.engPidOk 0x50) ∧
    decodesTo (.linStep .readPid (some 0x10)) (.engPidBad 0x10) ∧
    decodesTo (.linStep .respond none) .engRespond ∧
    decodesTo (.linStep .recvData (some 0x55)) (.engCmdData 0x55) ∧
    decodesTo (.linStep (.recvCheck 0x73) (some 0x73)) (.engCmdCkOk 0x73) ∧
    decodesTo (.linStep (.recvCheck 0x73) (some 0x74)) (.engCmdCkBad 0x74) ∧
    decodesTo (.linStep .drop none) .engDrop ∧
    rejects (.linStep .respond (some 0x00)) .noTransition ∧ rejects (.linStep .scanBreak none) .noTransition := by
  decide

/-- LIN bytes, 30_encoding.md R100 to R102: 0xC1 is `P1 = 1, P0 = 1, ID = 000001`. -/
theorem test_decode_lin_bytes :
    decodesTo (.linByte .break 0x00) .linBreak ∧ decodesTo (.linByte .sync 0x55) .linSync ∧
    decodesTo (.linByte .pid 0b11000001) (.linPid 0b11 0b000001) ∧ decodesTo (.linByte .pid 0b01010000) (.linPid 0b01 0b010000) ∧
    decodesTo (.linByte .data 0x0A) (.linData 0x0A) ∧ decodesTo (.linByte .checksum 0x73) (.linChecksum 0x73) ∧
    rejects (.linByte .pid 0x10) (.notTheField .pid 0x10) ∧ rejects (.linByte .break 0x01) (.notTheField .break 0x01) := by
  decide

/-- One-Wire characters and DS18B20 commands, 30_encoding.md R105, R108. -/
theorem test_decode_characters_and_commands :
    decodesTo (.owChar .b9600 0xF0) .owCharReset ∧ decodesTo (.owChar .b115200 0xFF) .owCharSlot1 ∧
    decodesTo (.owChar .b115200 0x00) .owCharSlot0 ∧ rejects (.owChar .b115200 0xF0) (.notASymbol .b115200 0xF0) ∧
    decodesTo (.dsCmd 0b11001100) .dsCmdSkipRom ∧ decodesTo (.dsCmd 0b01000100) .dsCmdConvert ∧
    decodesTo (.dsCmd 0b10111110) .dsCmdReadSp ∧ rejects (.dsCmd 0x4E) (.notACommand 0x4E) := by
  decide

/-- The table's fixed words, spec/opcode_table.json. -/
theorem test_table_words :
    decodeTableWord 8 0x05 = some (.csumGen 0 []) ∧ decodeTableWord 8 0x21 = some .dsRawTemp ∧
    decodeTableWord 8 0x00 = some .linBreak ∧ decodeTableWord 8 0x55 = some .linSync ∧ decodeTableWord 8 0xF0 = some .owCharReset ∧
    decodeTableWord 8 0xFF = some .owCharSlot1 ∧ decodeTableWord 8 0xBE = some .dsCmdReadSp ∧
    decodeTableWord 8 0x80 = some (.linPid 0b10 0) ∧ decodeTableWord 8 0x07 = none := by
  decide

/-! ### The units on the spec's vectors -/

/-- The 64 PIDs of 41_lin_pid_checksum.md R208, id 0 first. -/
theorem test_pid_table :
    ((List.range 64).map fun n => (pidEncode (BitVec.ofNat 6 n)).toNat) =
      [0x80, 0xC1, 0x42, 0x03, 0xC4, 0x85, 0x06, 0x47, 0x08, 0x49, 0xCA, 0x8B, 0x4C, 0x0D, 0x8E, 0xCF] ++
      [0x50, 0x11, 0x92, 0xD3, 0x14, 0x55, 0xD6, 0x97, 0xD8, 0x99, 0x1A, 0x5B, 0x9C, 0xDD, 0x5E, 0x1F] ++
      [0x20, 0x61, 0xE2, 0xA3, 0x64, 0x25, 0xA6, 0xE7, 0xA8, 0xE9, 0x6A, 0x2B, 0xEC, 0xAD, 0x2E, 0x6F] ++
      [0xF0, 0xB1, 0x32, 0x73, 0xB4, 0xF5, 0x76, 0x37, 0x78, 0x39, 0xBA, 0xFB, 0x3C, 0x7D, 0xFE, 0xBF] := by
  decide

/-- 95_test_vectors.md V2.1. -/
theorem test_pid_vectors :
    [0x00, 0xFF, 0x55, 0x80, 0x40, 0x10, 0x0B, 0x7F, 0xBF].map pidValidate =
      [none, none, some 0x15, some 0x00, none, none, none, none, some 0x3F] ∧
    [0x00, 0x01, 0x10, 0x15, 0x20, 0x3F].map pidParity = [0b10, 0b11, 0b01, 0b01, 0b00, 0b10] := by
  decide

/-- 95_test_vectors.md V2.2. -/
theorem test_csum_add_vectors :
    csumAdd 0x00 0x00 = 0x00 ∧ csumAdd 0xFF 0xFF = 0xFF ∧ csumAdd 0xFF 0x01 = 0x01 ∧ csumAdd 0x80 0x80 = 0x01 ∧
    csumAdd 0x01 0xFE = 0xFF ∧ csumAdd 0xC1 0x80 = 0x42 ∧ csumAdd 0x7F 0x80 = 0xFF := by
  decide

/-- 95_test_vectors.md V2.3. -/
theorem test_csum_gen_vectors :
    csumGen 0x55 [] = 0xAA ∧ csumGen 0x50 [0x0A, 0x14, 0x1E] = 0x73 ∧ csumGen 0x3C (List.replicate 8 0xFF) = 0xC3 ∧
    csumGen 0xCA [0x12, 0x34, 0x56, 0x78] = 0x20 ∧ csumGen 0x4A [0x55, 0x93, 0xE5] = 0xE6 ∧ csumGen 0x80 [0x7F] = 0x00 ∧
    csumGen 0xF0 [0x10, 0x20] = 0xDE ∧ csumGen 0x20 [0xE0] = 0xFE := by
  decide

/-- 95_test_vectors.md V2.4. -/
theorem test_csum_check_vectors :
    csumCheck 0x50 [0x0A, 0x14, 0x1E] 0x73 = true ∧ csumCheck 0x50 [0x0A, 0x14, 0x1E] 0x74 = false ∧
    csumCheck 0x50 [0x8A, 0x14, 0x1E] 0x73 = false ∧ csumCheck 0x50 [0x14, 0x0A, 0x1E] 0x73 = true ∧
    csumCheck 0x80 [0xFF] 0x7F = true ∧ csumCheck 0x80 [0x7F] 0x00 = true ∧ csumCheck 0x80 [0x7F] 0xFF = false := by
  decide

set_option maxRecDepth 8000 in
/-- 95_test_vectors.md V2.7. -/
theorem test_crc8_vectors :
    crc8Update 0x00 0x01 = 0x5E ∧ crc8Update 0x01 0x00 = 0x5E ∧ crc8Update 0x00 0x80 = 0x8C ∧ crc8Update 0x35 0xFF = 0xB4 ∧
    crc8Update 0x4F 0x01 = 0x59 ∧ crc8Check [] = 0 ∧ crc8Check [0x91, 0x01, 0x4B, 0x46, 0x7F, 0xFF, 0x0C, 0x10] = 0x70 ∧
    crc8Check [0x91, 0x01, 0x4B, 0x46, 0x7F, 0xFF, 0x0C, 0x10, 0x71] = 0x5E ∧ crc8Check (List.replicate 9 0xFF) = 0x63 ∧
    crc8Check [0x00, 0x4E, 0x4B, 0x46, 0x7F, 0xFF, 0x0C, 0x10, 0x70] = 0 := by
  decide

/-- 95_test_vectors.md V2.8. -/
theorem test_decode_vectors :
    (dsDecode [0x91, 0x01, 0, 0, 0, 0, 0, 0, 0]).toInt = 401 ∧ (dsDecode [0x5E, 0xFF, 0, 0, 0, 0, 0, 0, 0]).toInt = -162 ∧
    (dsDecode [0x00, 0x80, 0, 0, 0, 0, 0, 0, 0]).toInt = -32768 ∧ (dsDecode [0xFF, 0x7F, 0, 0, 0, 0, 0, 0, 0]).toInt = 32767 := by
  decide

/-! ### One step of each row -/

set_option maxRecDepth 8000 in
/-- The host port answers, from the rules' examples. -/
theorem test_units_answer :
    nextHas (exec (.pidParity 0x10) State.reset) (fun t => decide (t.host = [.answered 0x01 (.parity 0b01)])) ∧
    nextHas (exec (.pidEncode 0x10) owDown) (fun t => decide (t.host = [.answered 0x02 (.byte 0x50)])) ∧
    nextHas (exec (.pidValidate 0x10) State.reset) (fun t => decide (t.host = [.answered 0x03 (.validated none)])) ∧
    nextHas (exec (.csumAdd 0xC1 0x80) State.reset) (fun t => decide (t.host = [.answered 0x04 (.byte 0x42)])) ∧
    nextHas (exec (.csumGen 0x80 []) State.reset) (fun t => decide (t.host = [.answered 0x05 (.byte 0x7F)])) ∧
    nextHas (exec (.csumCheck 0x50 [0x0A, 0x14, 0x1E] 0x72) State.reset)
      (fun t => decide (t.host = [.answered 0x06 (.bit false)])) ∧
    nextHas (exec (.crc8Update 0x00 0x91) State.reset) (fun t => decide (t.host = [.answered 0x08 (.byte 0x4F)])) ∧
    nextHas (exec (.crc8Check (List.replicate 9 0)) State.reset) (fun t => decide (t.host = [.answered 0x09 (.byte 0)])) ∧
    nextHas (exec (.dsDecode [0x5E, 0xFF, 0, 0, 0, 0, 0, 0, 0]) State.reset)
      (fun t => decide (t.host = [.answered 0x0A (.raw 0xFF5E)])) := by
  decide

/-- 95_test_vectors.md V2.9. -/
theorem test_refusals :
    nextHas (step (moves (.host 0x07 [1, 2]) State.reset)) (fun t => decide (t.host = [.refused .unknownSelector 0x07])) ∧
    nextHas (exec (.csumGen 0x80 (List.replicate 9 0)) State.reset) (fun t => decide (t.host = [.refused .badOperand 0x05])) ∧
    nextHas (exec .owReset (sending 0 0)) (fun t => decide (t.host = [.refused .busy 0x10])) ∧
    nextHas (exec .owRb owDown) (fun t => decide (t.host = [.refused .busy 0x13])) := by
  decide

/-- `OW.RESET` and 43_onewire.md R301's first step; an accepted `OW.WB` at 115200. -/
theorem test_operations_start :
    nextHas (exec .owReset (rest .b115200)) (fun t => nextHas (owStep t) fun u =>
      decide (u.ow.baud = .b9600 ∧ u.ow.trace = [.baud .b9600] ∧ u.ow.owst = .busy)) ∧
    nextHas (exec (.owWb 0x44) (line (rest .b115200) [] [true])) (fun t => nextHas (owStep t) fun u =>
      decide (u.ow.trace = [.tx 0x00] ∧ u.ow.txb = some 0x44 ∧ u.ow.op = some .wb)) ∧
    nextHas (exec .dsStart (rest .b115200)) (fun t => decide (t.ow.op = some .start ∧ t.ow.owst = .busy)) ∧
    nextHas (exec .dsRawTemp (rest .b9600)) (fun t => decide (t.ow.op = some .rawTemp ∧ t.ow.owst = .busy)) := by
  decide

/-- 95_test_vectors.md P6: a slot at 9600 baud faults before any character. -/
theorem test_slot_at_9600_faults :
    nextHas (exec .owRb (rest .b9600)) (fun t => nextHas (owStep t) fun u =>
      decide (u.ow.owst = .faulted ∧ u.ow.fault = some (.slotBaud .b9600) ∧ u.ow.trace = [] ∧ u.ow.txb = none)) = true := by
  decide

/-- 43_onewire.md R303: the last slot of 0xA5 (bit 7), read back low, ends `OW.WRB`. -/
theorem test_slot_ends_byte :
    nextHas (exec (.owSlot true 0xF8) (sending 0xA5 7)) (fun t =>
      decide (t.ow.owst = .idle ∧ t.ow.result = some 0 ∧ t.host = [.returned .wrb (.byte 0)] ∧ t.ow.bit = none)) ∧
    nextHas (exec (.owSlot true 0xFF) (sending 0xA5 7)) (fun t => decide (t.ow.result = some 0x80)) := by
  decide

/-- 30_encoding.md R105. -/
theorem test_characters :
    nextHas (exec .owCharReset (line (within .reset (resetProc.drop 1) none) [] [true]))
      (fun t => decide (t.ow.trace = [.tx 0xF0])) ∧
    nextHas (exec .owCharSlot1 (sending 0xA5 2)) (fun t => decide (t.ow.trace = [.tx 0xFF])) ∧
    nextHas (exec .owCharSlot0 (sending 0xA5 1)) (fun t => decide (t.ow.trace = [.tx 0x00])) := by
  decide

/-- 30_encoding.md R108. -/
theorem test_commands :
    nextHas (exec .dsCmdSkipRom (line (within .start (startProc.drop 5) none) [] [true]))
      (fun t => decide (t.ow.trace = [.tx 0x00] ∧ t.ow.txb = some 0xCC)) ∧
    nextHas (exec .dsCmdConvert (line (within .start (startProc.drop 8) none) [] [true]))
      (fun t => decide (t.ow.txb = some 0x44)) ∧
    nextHas (exec .dsCmdReadSp (line (within .rawTemp (rawTempProc.drop 20) none) [] [true]))
      (fun t => decide (t.ow.txb = some 0xBE)) := by
  decide

/-- In a run the command stands behind the presence verdict of the reset, which the same step makes (44_ds18b20_crc8.md R344). -/
theorem test_command_in_a_run :
    nextHas (owStep (within .start (startProc.drop 3) (some 0xE0)))
      (fun t => decide (owFetch t.ow = some .dsCmdSkipRom ∧ t.ow.pres = none)) ∧
    nextHas (exec .dsCmdSkipRom (line (within .start (startProc.drop 4) (some 0xE0)) [] [true]))
      (fun t => decide (t.ow.pres = some true ∧ t.ow.trace = [.tx 0x00] ∧ t.ow.txb = some 0xCC)) := by
  decide

/-- 95_test_vectors.md V2.6: a readback equal to 0xF0 shows no presence. -/
theorem test_absent_device :
    nextHas (owStep (within .reset [.setBaud .b115200, .presence] (some 0xF0))) (fun t => decide (t.ow.pres = some false ∧
      t.ow.trace = [.baud .b115200, .diag (.absentDevice 0xF0), .ret (.bit false)] ∧ t.ow.owst = .idle)) ∧
    nextHas (owStep (within .reset [.setBaud .b115200, .presence] (some 0x00))) (fun t => decide (t.ow.pres = some true)) := by
  decide

/-- 95_test_vectors.md V2.5, the scanner. -/
theorem test_scanner :
    nextHas (exec (.engBreakHit 0x00) (linIn .scanBreak)) (fun t => decide (t.lin.lst = .scanSync)) ∧
    nextHas (exec (.engBreakSkip 0x55) (linIn .scanBreak))
      (fun t => decide (t.lin.lst = .scanBreak ∧ t.lin.trace = [.diag (.invalidBreak 0x55)])) ∧
    nextHas (exec (.engSyncOk 0x55) (linIn .scanSync)) (fun t => decide (t.lin.lst = .readPid)) ∧
    nextHas (exec (.engSyncBad 0x00) (linIn .scanSync))
      (fun t => decide (t.lin.lst = .scanBreak ∧ t.lin.trace = [.diag (.invalidSync 0x00)])) ∧
    nextHas (exec (.engPidBad 0x00) (linIn .readPid))
      (fun t => decide (t.lin.lst = .scanBreak ∧ t.lin.trace = [.diag (.invalidPid 0x00)])) := by
  decide

/-- 95_test_vectors.md V2.5, `ENG.PID_OK`. -/
theorem test_pid_ok_dispatches :
    nextHas (exec (.engPidOk 0x20) (handled (linIn .readPid) (some [0, 0]) none)) (fun t =>
      decide (t.lin.lst = .respond ∧ t.lin.pid = some 0x20 ∧ t.lin.rspLen = some 2 ∧ t.env.expect = [none])) ∧
    nextHas (exec (.engPidOk 0x50) (handled (linIn .readPid) none (some 3))) (fun t =>
      decide (t.lin.lst = .recvCmd ∧ t.lin.cmdLen = some 3 ∧ t.lin.cmdCnt = some 0)) ∧
    nextHas (exec (.engPidOk 0x55) (handled (linIn .readPid) none none)) (fun t => decide (t.lin.lst = .drop)) := by
  decide

theorem test_pid_ok_faults :
    nextHas (exec (.engPidOk 0x20) (handled (linIn .readPid) (some (List.replicate 9 0)) none)) (fun t =>
      decide (t.lin.lst = .faulted ∧ t.lin.fault = some (.handlerContract 0x20) ∧ t.lin.pid = none)) ∧
    nextHas (exec (.engPidOk 0x50) (handled (linIn .readPid) none (some 9))) (fun t =>
      decide (t.lin.fault = some (.handlerContract 0x10) ∧ t.lin.cmdLen = none)) := by
  decide

/-- 95_test_vectors.md V2.5, `ENG.RESPOND`, and its failure. -/
theorem test_respond :
    nextHas (exec .engRespond (linTxIs true (respond 0x20 [0, 0]))) (fun t =>
      decide (t.lin.trace = [.tx [0x00, 0x00, 0xDF]] ∧ t.lin.lst = .scanBreak ∧ t.lin.rspLen = none)) ∧
    nextHas (exec .engRespond (linTxIs true (respond 0x80 []))) (fun t => decide (t.lin.trace = [.tx [0x7F]])) ∧
    nextHas (exec .engRespond (linTxIs false (respond 0x80 []))) (fun t =>
      decide (t.lin.lst = .faulted ∧ t.lin.trace = [.failed .linTx] ∧ t.lin.rspLen = some 0)) := by
  decide

/-- 95_test_vectors.md V2.5, the command rows. -/
theorem test_command_rows :
    nextHas (exec (.engCmdData 0x0A) (recv 0x50 [] 3)) (fun t =>
      decide (t.lin.cmdBuf[0] = some 0x0A ∧ t.lin.cmdCnt = some 1 ∧ t.lin.lst = .recvCmd)) ∧
    nextHas (exec (.engCmdCkOk 0x73) (recv 0x50 [0x0A, 0x14, 0x1E] 3)) (fun t =>
      decide (t.lin.trace = [.handleCommand 0x10 [0x0A, 0x14, 0x1E]] ∧ t.lin.lst = .scanBreak ∧ t.lin.cmdLen = none)) ∧
    nextHas (exec (.engCmdCkOk 0x7F) (recv 0x80 [] 0)) (fun t => decide (t.lin.trace = [.handleCommand 0x00 []])) ∧
    nextHas (exec (.engCmdCkBad 0x74) (recv 0x50 [0x0A, 0x14, 0x1E] 3)) (fun t =>
      decide (t.lin.trace = [.diag (.linChecksum 0x10 0x73 0x74)] ∧ t.lin.lst = .scanBreak)) ∧
    nextHas (exec .engDrop (dropping 0xC1)) (fun t =>
      decide (t.lin.trace = [.diag (.unknownId 0x01)] ∧ t.lin.lst = .scanBreak)) := by
  decide

/-- A LIN byte row completes the `LinRx` the agent holds on, whatever it was sent as (42_lin_engine.md R240: 0x00 and 0x55 as data). -/
theorem test_lin_bytes :
    nextHas (exec .linBreak (linIn .scanBreak)) (fun t => decide (t.lin.lst = .scanSync)) ∧
    nextHas (exec .linSync (linIn .scanSync)) (fun t => decide (t.lin.lst = .readPid)) ∧
    nextHas (exec (.linPid 0b11 0x01) (handled (linIn .readPid) none none)) (fun t => decide (t.lin.pid = some 0xC1)) ∧
    nextHas (exec .linBreak (recv 0x50 [] 3)) (fun t => decide (t.lin.cmdBuf[0] = some 0x00)) ∧
    nextHas (exec (.linData 0x0A) (recv 0x50 [] 3)) (fun t => decide (t.lin.cmdCnt = some 1)) ∧
    nextHas (exec (.linChecksum 0x73) (recv 0x50 [0x0A, 0x14, 0x1E] 3))
      (fun t => decide (t.lin.trace = [.handleCommand 0x10 [0x0A, 0x14, 0x1E]])) := by
  decide

/-- A row that the state does not select is refused by name (log entry 18). -/
theorem test_not_selected :
    (match exec (.engSyncOk 0x55) (linIn .readPid) with
      | .refused r => decide (r = .notSelected "ENG.SYNC_OK")
      | .next _ => false
      | .fault _ => false) = true := by
  decide

/-! ### Resets and steps -/

/-- 70_reset_and_hazards.md R501, R502: each agent's reset clears its fault alone. -/
theorem test_resets :
    nextHas (step (moves .restartLin { linDown with ow := owDown.ow }))
      (fun t => decide (t.lin.lst = .scanBreak ∧ t.lin.fault = none ∧ t.ow = owDown.ow)) ∧
    nextHas (step (moves .restartOw { linDown with ow := owDown.ow }))
      (fun t => decide (t.ow.owst = .idle ∧ t.ow.fault = none ∧ t.lin = linDown.lin)) := by
  decide

/-- 42_lin_engine.md R245, R250. -/
theorem test_hold_and_failure :
    nextHas (step (moves .lin (recv 0x50 [0x0A] 3))) (fun t => decide (t = recv 0x50 [0x0A] 3)) ∧
    nextHas (step (moves .lin (hears (linIn .readPid) [.fail])))
      (fun t => decide (t.lin.lst = .faulted ∧ t.lin.fault = some (.transportFailure .lin))) := by
  decide

/-- A readback comes for a transmitted character alone, and one for each (60_exceptions.md R418): with no `OwRx` held it is no move, and
held it completes that one. -/
theorem test_readback_of_a_sent_character :
    nextHas (step (moves (.owByte 0xF0) (rest .b9600))) (fun t => decide (t = rest .b9600)) ∧
    nextHas (step (moves .owFail (sending 0xA5 7))) (fun t => decide (t = sending 0xA5 7)) ∧
    nextHas (step (moves (.owByte 0xF0) (within .reset (resetProc.drop 2) none))) (fun t =>
      decide (t.ow.trace = [.rx 0xF0] ∧ t.env.owRx = [] ∧ owHolds t = false)) ∧
    nextHas (step (moves .owFail (within .reset (resetProc.drop 2) none))) (fun t =>
      decide (t.ow.fault = some (.transportFailure .ow) ∧ t.env.owRx = [])) := by
  decide

/-- 70_reset_and_hazards.md R510: a run has ended with turns and readbacks listed, not with a request or LIN bytes to come, nor after a
fault. -/
theorem test_run_ended :
    State.runEnded { rest .b9600 with env := { Env.reset with moves := [.lin, .ow, .owByte 0, .restartOw] } } = true ∧
    State.runEnded (moves (.host 0x13 []) (rest .b9600)) = false ∧ State.runEnded (moves (.linByte 0x3C) (rest .b9600)) = false ∧
    State.runEnded (hears (rest .b9600) [.byte 0x3C]) = false ∧ State.runEnded (sending 0xA5 7) = false ∧
    owDown.runEnded = false ∧ linDown.runEnded = false := by
  decide

/-- The next step runs a placed table word, here `OW.CHAR_RESET` and `LIN.BREAK` (log entry 5). -/
theorem test_placed_words_run :
    nextHas (step (State.reset.withFetchWord 8 0xF0)) (fun t => decide (t.ow.trace = [.tx 0xF0])) ∧
    nextHas (step (State.reset.withFetchWord 8 0x00)) (fun t => decide (t.lin.lst = .scanSync)) ∧
    nextHas (step (State.reset.withFetchWord 8 0x21)) (fun t => decide (t.ow.op = some .rawTemp)) := by
  decide

/-! ### Witnesses: states and operands that meet an obligation's hypotheses -/

theorem witness_DecodeEncodeRoundTrip : Instr.wf (.linPid 0b11 0x01) = true := by decide

theorem witness_DecodedHasItsTypes : decode (.linByte .pid 0xC1) = .ok (.linPid 0b11 0x01) := rfl

theorem witness_HostRequestHasOneMeaning : decode (.host 0x05 [0x80, 0x7F]) = .ok (.csumGen 0x80 [0x7F]) := rfl

theorem witness_RefusalsInOrder_selector :
    (moves (.host 0x22 []) State.reset).env.moves = [.host 0x22 []] ∧
    (0x22 : Byte) ∉ ([0x01, 0x02, 0x03, 0x04, 0x05, 0x06, 0x08, 0x09, 0x0A, 0x10, 0x12, 0x13, 0x14, 0x20, 0x21] : List Byte) := by
  decide

theorem witness_RefusalsInOrder_operand :
    (moves (.host 0x10 [0x00]) State.reset).env.moves = [.host 0x10 [0x00]] ∧
    (0x10 : Byte) ∈ ([0x01, 0x02, 0x03, 0x04, 0x05, 0x06, 0x08, 0x09, 0x0A, 0x10, 0x12, 0x13, 0x14, 0x20, 0x21] : List Byte) ∧
    ∀ i : Instr, i.wf = true → encode i ≠ .host 0x10 [0x00] :=
  ⟨rfl, by decide, fun i _ => by cases i <;> simp [encode]⟩

theorem witness_RefusalsInOrder_busy :
    (moves (.host 0x12 [0xFF]) owDown).env.moves = [.host 0x12 [0xFF]] ∧
    (0x12 : Byte) ∈ ([0x10, 0x12, 0x13, 0x14, 0x20, 0x21] : List Byte) ∧
    (∃ i : Instr, i.wf = true ∧ encode i = .host 0x12 [0xFF]) ∧ (moves (.host 0x12 [0xFF]) owDown).ow.owst ≠ .idle :=
  ⟨rfl, by decide, ⟨.owWrb 0xFF, rfl, rfl⟩, by decide⟩

theorem witness_BadOperandsRefused :
    64 ≤ (0x40 : Byte).toNat ∧ 8 < (List.replicate 9 (0 : Byte)).length ∧
    (List.replicate 8 (0 : Byte)).length ≠ 9 ∧ (List.replicate 10 (0 : Byte)).length ≠ 9 := by
  decide

theorem witness_OperationsAccepted : (rest .b9600).ow.owst = .idle := rfl

theorem witness_OperationsRefusedWhenBusy : owDown.ow.owst ≠ .idle ∧ (sending 0 0).ow.owst ≠ .idle := by decide

/-- 0x00 (the break), 0x7F and 0xFF encode no id (95_test_vectors.md V2.1). -/
theorem witness_PidUnitAnswers :
    (∀ j : Fid, (0x00 : Byte) ≠ pidEncode j) ∧ (∀ j : Fid, (0x7F : Byte) ≠ pidEncode j) ∧
    (∀ j : Fid, (0xFF : Byte) ≠ pidEncode j) ∧ (0xBF : Byte) = (BitVec.ofBool true ++ BitVec.ofBool false) ++ (0x3F : Fid) := by
  decide

theorem witness_CarryIsFolded : (0xFF : Byte) = 0xFF ∧ (0x01 : Byte) ≠ 0 := by decide

theorem witness_ChecksumGenerated :
    (List.replicate 8 (0xFF : Byte)).length ≤ 8 ∧ ([0x7F] : List Byte).foldl csumAdd 0x80 = 0xFF ∧
    ([] : List Byte).foldl csumAdd 0x80 ≠ 0 := by
  decide

theorem witness_ChecksumChecked : ([0x7F] : List Byte).length ≤ 8 ∧ csumGen 0x80 [0x7F] = 0x00 := by decide

theorem witness_SingleBitFlipDetected :
    csumCheck 0x50 [0x0A, 0x14, 0x1E] 0x73 = true ∧ 7 < 8 ∧ 2 < ([0x0A, 0x14, 0x1E] : List Byte).length := by
  decide

set_option maxRecDepth 8000 in
theorem witness_CrcLaws :
    crc8Check [0x91, 0x01, 0x4B, 0x46, 0x7F, 0xFF, 0x0C, 0x10, 0x70] = 0 ∧
    8 < ([0x91, 0x01, 0x4B, 0x46, 0x7F, 0xFF, 0x0C, 0x10, 0x70] : List Byte).length ∧
    ([0x91, 0x01, 0x4B, 0x46, 0x7F, 0xFF, 0x0C, 0x10, 0x70] : List Byte)[8]? ≠ some 0x71 := by
  decide

theorem witness_TemperatureDecoded : ([0x4B, 0x46, 0x7F, 0xFF, 0x0C, 0x10, 0x70] : List Byte).length = 7 := rfl

theorem witness_ResetPulseRuns :
    (line (rest .b9600) [.byte 0xF0] [true]).ow.owst = .idle ∧ (line (rest .b9600) [.byte 0xF0] [true]).env.owRx = [.byte 0xF0] ∧
    (line (rest .b9600) [.byte 0xF0] [true]).env.owTx = [true] := by
  decide

/-- Eight readbacks and eight completing writes. -/
def eight : State := line (rest .b115200) (slotItems (echo 0xA5) ++ []) (List.replicate 8 true ++ [])

theorem witness_ByteOperationsRun :
    eight.ow.owst = .idle ∧ eight.ow.baud = .b115200 ∧ eight.env.owRx = slotItems (echo 0xA5) ++ [] ∧
    eight.env.owTx = List.replicate 8 true ++ [] := by
  decide

theorem witness_LineLaws :
    (∀ i : Fin 8, owNoDevice (slotChar ((0xA5 : Byte).getLsbD i)) (echo 0xA5 i)) ∧
    (∀ i : Fin 8, owOpenDrain (slotChar ((0xA5 : Byte).getLsbD i)) 0x00) ∧ owNoDevice Config.owResetChar 0xF0 := by
  refine ⟨fun _ => rfl, fun i => ?_, rfl⟩
  simp [owOpenDrain]

theorem witness_SlotAtWrongRateFaults : (rest .b9600).ow.owst = .idle ∧ (rest .b9600).ow.baud = .b9600 := ⟨rfl, rfl⟩

theorem witness_SlotPairRuns :
    (sending 0xA5 7).Inv ∧ owPending (sending 0xA5 7).ow = some (.txSlot true, none) ∧
    (sending 0xA5 7).ow.baud = .b115200 ∧ (drawOwTx (sending 0xA5 7).env).1 = true := by
  decide

/-- `OW.RESET` about to send its character. -/
def resetting : State := line (within .reset (resetProc.drop 1) none) [] [true]

theorem witness_CharactersAreSent_reset :
    (drawOwTx resetting.env).1 = true ∧ resetting.ow.owst = .busy ∧
    resetting.ow.seq = some ⟨[.txReset, .rx, .setBaud .b115200, .presence], none⟩ := by
  decide

theorem witness_CharactersAreSent_slots :
    (drawOwTx (sending 0xA5 7).env).1 = true ∧ (sending 0xA5 7).ow.owst = .busy ∧
    (sending 0xA5 7).ow.seq = some ⟨[.slots, .unload], none⟩ ∧ (sending 0xA5 7).ow.bit = some 7 ∧
    (sending 0xA5 7).ow.txb = some 0xA5 ∧ (0xA5 : Byte).getLsbD 7 = true ∧
    (sending 0xA5 6).ow.bit = some 6 ∧ (0xA5 : Byte).getLsbD 6 = false ∧
    owPending (sending 0xA5 6).ow = some (.txSlot false, none) ∧ (sending 0xA5 6).Inv := by
  decide

/-- `OW.WRB(x)` with the readback of slot `n` received. -/
def stored (x : Byte) (n : Nat) : State :=
  { sending x n with ow := { (sending x n).ow with seq := some ⟨[.store, .slots, .unload], some 0xFF⟩ } }

/-- The readback of a byte's last slot received, with this `DS.IDX` and rest of the operation. -/
def lastBit (op : OwOp) (idx : Option Nat) (todo : List Stmt) : State :=
  { line (within op (.store :: .slots :: .unload :: todo) (some 0xFF)) (slotItems (echo 0xCC) ++ []) (List.replicate 8 true ++ []) with
    ow := { (within op (.store :: .slots :: .unload :: todo) (some 0xFF)).ow with
      txb := some 0xCC, rxb := some 0x4C, bit := some 7, idx := idx } }

/-- A byte's first slot at the head of its procedure, and its last one (bit 7) after the readback of bit 6. -/
theorem witness_CharactersAreSent_byte :
    (drawOwTx (line (within .wrb (byteProc 0xA5) none) [] [true]).env).1 = true ∧
    (within .wrb (byteProc 0xA5) none).ow.owst = .busy ∧ (within .wrb (byteProc 0xA5) none).ow.baud = .b115200 ∧
    (within .wrb (byteProc 0xA5) none).ow.seq = some ⟨.load 0xA5 :: .slots :: [.unload], none⟩ ∧
    (stored 0xA5 6).ow.owst = .busy ∧ (stored 0xA5 6).ow.baud = .b115200 ∧ (drawOwTx (stored 0xA5 6).env).1 = true ∧
    (stored 0xA5 6).ow.seq = some ⟨.store :: .slots :: [.unload], some 0xFF⟩ ∧ (stored 0xA5 6).ow.bit = some 6 ∧ 6 < 7 ∧
    (stored 0xA5 6).ow.txb = some 0xA5 ∧ (stored 0xA5 6).ow.rxb = some 0x00 := by
  decide

/-- The first slot of scratchpad byte 0, and of byte 8. -/
theorem witness_CharactersAreSent_read :
    (drawOwTx (lastBit .rawTemp none [.idxZero, .readBytes, .verdict]).env).1 = true ∧
    (lastBit .rawTemp none [.idxZero, .readBytes, .verdict]).ow.owst = .busy ∧
    (lastBit .rawTemp none [.idxZero, .readBytes, .verdict]).ow.baud = .b115200 ∧
    (lastBit .rawTemp none [.idxZero, .readBytes, .verdict]).ow.seq =
      some ⟨.store :: .slots :: .unload :: .idxZero :: .readBytes :: [.verdict], some 0xFF⟩ ∧
    (lastBit .rawTemp none [.idxZero, .readBytes, .verdict]).ow.bit = some 7 ∧
    (lastBit .rawTemp none [.idxZero, .readBytes, .verdict]).ow.rxb = some 0x4C ∧
    (drawOwTx (lastBit .rawTemp (some 7) [.storeByte, .readBytes, .verdict]).env).1 = true ∧
    (lastBit .rawTemp (some 7) [.storeByte, .readBytes, .verdict]).ow.owst = .busy ∧
    (lastBit .rawTemp (some 7) [.storeByte, .readBytes, .verdict]).ow.baud = .b115200 ∧
    (lastBit .rawTemp (some 7) [.storeByte, .readBytes, .verdict]).ow.seq =
      some ⟨.store :: .slots :: .unload :: .storeByte :: .readBytes :: [.verdict], some 0xFF⟩ ∧
    (lastBit .rawTemp (some 7) [.storeByte, .readBytes, .verdict]).ow.bit = some 7 ∧
    (lastBit .rawTemp (some 7) [.storeByte, .readBytes, .verdict]).ow.rxb = some 0x4C ∧
    (lastBit .rawTemp (some 7) [.storeByte, .readBytes, .verdict]).ow.idx = some 7 ∧ 7 < 8 := by
  decide

/-- The OW agent about to send a command, with eight readbacks. -/
def commanding (op : OwOp) (todo : List Stmt) (r : Option Byte) : State :=
  line (within op todo r) (slotItems (echo 0xCC) ++ []) (List.replicate 8 true ++ [])

/-- 0xCC of `DS.START` behind the presence verdict of its reset. -/
theorem witness_CommandsAreSent_skipRom :
    (commanding .start (startProc.drop 4) (some 0xE0)).Inv ∧
    owPending (commanding .start (startProc.drop 4) (some 0xE0)).ow = some (.txSlot false, some .skipRom) ∧
    (commanding .start (startProc.drop 4) (some 0xE0)).ow.owst = .busy ∧
    (commanding .start (startProc.drop 4) (some 0xE0)).ow.baud = .b115200 ∧
    (commanding .start (startProc.drop 4) (some 0xE0)).env.owRx = slotItems (echo 0xCC) ++ [] ∧
    (commanding .start (startProc.drop 4) (some 0xE0)).env.owTx = List.replicate 8 true ++ [] ∧
    (drawOwTx (commanding .start (startProc.drop 4) (some 0xE0)).env).1 = true ∧
    (commanding .start (startProc.drop 4) (some 0xE0)).ow.seq =
      some ⟨.presence :: .command .skipRom :: .slots :: [.unload, .command .convert, .slots, .unload], some 0xE0⟩ := by
  decide

/-- 0x44 of `DS.START` behind the last readback of 0xCC. -/
theorem witness_CommandsAreSent_convert :
    (lastBit .start none (startProc.drop 8)).Inv ∧
    owPending (lastBit .start none (startProc.drop 8)).ow = some (.txSlot false, some .convert) ∧
    (lastBit .start none (startProc.drop 8)).ow.owst = .busy ∧ (lastBit .start none (startProc.drop 8)).ow.baud = .b115200 ∧
    (lastBit .start none (startProc.drop 8)).env.owRx = slotItems (echo 0xCC) ++ [] ∧
    (lastBit .start none (startProc.drop 8)).env.owTx = List.replicate 8 true ++ [] ∧
    (lastBit .start none (startProc.drop 8)).ow.seq =
      some ⟨.store :: .slots :: .unload :: .command .convert :: .slots :: [.unload], some 0xFF⟩ ∧
    (lastBit .start none (startProc.drop 8)).ow.bit = some 7 ∧ (lastBit .start none (startProc.drop 8)).ow.rxb = some 0x4C := by
  decide

/-- 0xBE of `DS.RAWTEMP` behind the last readback of 0xCC, and at the head. -/
theorem witness_CommandsAreSent_readSp :
    (lastBit .rawTemp none (rawTempProc.drop 20)).Inv ∧
    owPending (lastBit .rawTemp none (rawTempProc.drop 20)).ow = some (.txSlot false, some .readSp) ∧
    (lastBit .rawTemp none (rawTempProc.drop 20)).ow.seq =
      some ⟨.store :: .slots :: .unload :: .command .readSp :: .slots :: [.unload, .idxZero, .readBytes, .verdict], some 0xFF⟩ ∧
    (commanding .rawTemp (rawTempProc.drop 20) none).Inv ∧
    owPending (commanding .rawTemp (rawTempProc.drop 20) none).ow = some (.txSlot false, some .readSp) ∧
    (commanding .rawTemp (rawTempProc.drop 20) none).ow.seq =
      some ⟨.command .readSp :: .slots :: [.unload, .idxZero, .readBytes, .verdict], none⟩ := by
  decide

/-- The readbacks of `DS.START` with a device. -/
def starting : State :=
  line (rest .b9600) (.byte 0xE0 :: slotItems (echo 0xCC) ++ slotItems (echo 0x44) ++ []) (List.replicate 17 true ++ [])

theorem witness_ConversionStarts :
    starting.ow.owst = .idle ∧
    starting.env.owRx = .byte 0xE0 :: slotItems (echo 0xCC) ++ slotItems (echo 0x44) ++ [] ∧
    starting.env.owTx = List.replicate 17 true ++ [] :=
  ⟨rfl, rfl, rfl⟩

/-- The readbacks of `DS.RAWTEMP` with no device on the line. -/
def measuring : State :=
  line (rest .b9600)
    (.byte 0xF0 :: slotItems (echo 0xCC) ++ slotItems (echo 0x44) ++ .byte 0xF0 :: slotItems (echo 0xCC) ++ slotItems (echo 0xBE)
      ++ (List.ofFn fun _ : Fin 9 => slotItems (echo 0xFF)).flatten ++ [])
    (List.replicate 106 true ++ [])

theorem witness_TemperatureMeasured :
    measuring.ow.owst = .idle ∧
    measuring.env.owRx = .byte 0xF0 :: slotItems (echo 0xCC) ++ slotItems (echo 0x44) ++ .byte 0xF0 :: slotItems (echo 0xCC)
      ++ slotItems (echo 0xBE) ++ (List.ofFn fun _ : Fin 9 => slotItems (echo 0xFF)).flatten ++ [] ∧
    measuring.env.owTx = List.replicate 106 true ++ [] :=
  ⟨rfl, rfl, rfl⟩

theorem witness_OneWireFailureFaults :
    owPending (line (within .reset (resetProc.drop 2) none) [.fail] []).ow = some (.rx, none) ∧
    (line (within .reset (resetProc.drop 2) none) [.fail] []).env.owRx = [.fail] ∧
    owPending (line (within .reset (resetProc.drop 1) none) [] [false]).ow = some (.txReset, none) ∧
    (drawOwTx (line (within .reset (resetProc.drop 1) none) [] [false]).env).1 = false ∧
    owPending (line (sending 0xA5 7) [] [false]).ow = some (.txSlot true, none) ∧
    (line (sending 0xA5 7) [] [false]).ow.baud = .b115200 ∧ (drawOwTx (line (sending 0xA5 7) [] [false]).env).1 = false := by
  decide

theorem witness_BreakIsFound :
    (hears (linIn .scanBreak) [.byte 0x00]).lin.lst = .scanBreak ∧ (hears (linIn .scanBreak) [.byte 0x00]).env.linRx = [.byte 0x00] ∧
    (hears (linIn .scanBreak) [.fail]).env.linRx = [.fail] := by
  decide

theorem witness_NoiseIsSkipped :
    (hears (linIn .scanBreak) [.byte 0x01]).lin.lst = .scanBreak ∧ (0x01 : Byte) ≠ 0x00 ∧ (0xFF : Byte) ≠ 0x00 ∧
    (hears (linIn .scanBreak) [.byte 0x01]).env.linRx = [.byte 0x01] := by
  decide

theorem witness_SyncIsAccepted :
    (hears (linIn .scanSync) [.byte 0x55]).lin.lst = .scanSync ∧ (hears (linIn .scanSync) [.byte 0x55]).env.linRx = [.byte 0x55] ∧
    (hears (linIn .scanSync) [.fail]).env.linRx = [.fail] := by
  decide

theorem witness_BadSyncDrops :
    (hears (linIn .scanSync) [.byte 0x00]).lin.lst = .scanSync ∧ (0x00 : Byte) ≠ 0x55 ∧
    (hears (linIn .scanSync) [.byte 0x00]).env.linRx = [.byte 0x00] := by
  decide

theorem witness_BadPidDrops :
    (hears (linIn .readPid) [.byte 0x00]).lin.lst = .readPid ∧ pidValidate 0x00 = none ∧
    (hears (linIn .readPid) [.byte 0x00]).env.linRx = [.byte 0x00] ∧ (hears (linIn .readPid) [.fail]).env.linRx = [.fail] := by
  decide

theorem witness_PidIsDispatched :
    (linIn .readPid).lin.lst = .readPid ∧ pidValidate 0x20 = some 0x20 ∧
    (drawBuild 0x20 (handled (linIn .readPid) (some (List.replicate 8 0)) none).env).1 = some (List.replicate 8 0) ∧
    (drawBuild 0x20 (handled (linIn .readPid) (some (List.replicate 9 0)) none).env).1 = some (List.replicate 9 0) ∧
    (drawBuild 0x20 (handled (linIn .readPid) none (some 8)).env).1 = none ∧
    (drawExpect 0x20 (drawBuild 0x20 (handled (linIn .readPid) none (some 8)).env).2).1 = some 8 ∧
    (drawExpect 0x20 (drawBuild 0x20 (handled (linIn .readPid) none (some 9)).env).2).1 = some 9 ∧
    (drawExpect 0x20 (drawBuild 0x20 (handled (linIn .readPid) none none).env).2).1 = none := by
  decide

theorem witness_ResponseIsSent :
    (respond 0x20 (List.replicate 8 1)).lin.lst = .respond ∧ (respond 0x20 (List.replicate 8 1)).lin.pid = some 0x20 ∧
    (List.replicate 8 (1 : Byte)).length ≤ 8 ∧ (respond 0x20 (List.replicate 8 1)).lin.rspLen = some 8 ∧
    (respond 0x20 (List.replicate 8 1)).lin.rspBuf.toList.take 8 = (List.replicate 8 (1 : Byte)).map some ∧
    (drawLinTx (linTxIs true (respond 0x20 (List.replicate 8 1))).env).1 = true ∧
    (drawLinTx (linTxIs false (respond 0x20 (List.replicate 8 1))).env).1 = false := by
  decide

theorem witness_CommandDataReceived :
    (recv 0x50 (List.replicate 7 1) 8).lin.lst = .recvCmd ∧ (recv 0x50 (List.replicate 7 1) 8).lin.cmdCnt = some 7 ∧
    (recv 0x50 (List.replicate 7 1) 8).lin.cmdLen = some 8 ∧ 7 < 8 ∧ 8 ≤ 8 := by
  decide

/-- A command with all its bytes, its checksum next; with no byte at all, and with eight. -/
theorem witness_GoodCommandIsHandled :
    (hears (recv 0x80 [] 0) [.byte (csumGen 0x80 [])]).lin.lst = .recvCmd ∧ (recv 0x80 [] 0).lin.pid = some 0x80 ∧
    (recv 0x80 [] 0).lin.cmdLen = some 0 ∧ (recv 0x80 [] 0).lin.cmdCnt = some 0 ∧ (recv 0x80 [] 0).lin.cmdBuf.toList.take 0 = [] ∧
    (hears (recv 0x80 [] 0) [.byte (csumGen 0x80 [])]).env.linRx = [.byte (csumGen 0x80 [])] ∧
    (recv 0x80 (List.replicate 8 1) 8).lin.cmdLen = some 8 ∧ (recv 0x80 (List.replicate 8 1) 8).lin.cmdCnt = some 8 ∧
    (recv 0x80 (List.replicate 8 1) 8).lin.cmdBuf.toList.take 8 = (List.replicate 8 (1 : Byte)).map some := by
  decide

theorem witness_BadCommandIsDiscarded :
    (hears (recv 0x80 [0x7F] 1) [.byte 0xFF]).lin.lst = .recvCmd ∧ (recv 0x80 [0x7F] 1).lin.pid = some 0x80 ∧
    (recv 0x80 [0x7F] 1).lin.cmdLen = some 1 ∧ (recv 0x80 [0x7F] 1).lin.cmdCnt = some 1 ∧
    (recv 0x80 [0x7F] 1).lin.cmdBuf.toList.take 1 = [some 0x7F] ∧ (0xFF : Byte) ≠ csumGen 0x80 [0x7F] ∧
    (hears (recv 0x80 [0x7F] 1) [.byte 0xFF]).env.linRx = [.byte 0xFF] := by
  decide

theorem witness_UnknownIdIsDropped : (dropping 0xC1).lin.lst = .drop ∧ (dropping 0xC1).lin.pid = some 0xC1 := ⟨rfl, rfl⟩

/-- A header with the id of this PID, and more bytes, with these handler answers. -/
def header (pid : Byte) (more : List RxItem) (r : Option (List Byte)) (n : Option Nat) : State :=
  linTxIs true (handled (hears (linIn .scanBreak) (.byte 0x00 :: .byte 0x55 :: .byte pid :: more)) r n)

theorem witness_ResponseFrameCycle :
    (header 0x20 [] (some [0, 0]) none).lin.lst = .scanBreak ∧ (pidValidate 0x20).isSome = true ∧ ([0, 0] : List Byte).length ≤ 8 ∧
    (header 0x20 [] (some [0, 0]) none).env.linRx = [.byte 0x00, .byte 0x55, .byte 0x20] ∧
    (header 0x20 [] (some [0, 0]) none).env.build = [some [0, 0]] ∧ (header 0x20 [] (some [0, 0]) none).env.linTx = [true] := by
  decide

theorem witness_CommandFrameCycle :
    (header 0x50 [.byte 0x0A, .byte 0x73] none (some 1)).lin.lst = .scanBreak ∧ pidValidate 0x50 = some 0x10 ∧
    (header 0x50 [.byte 0x0A, .byte 0x73] none (some 1)).env.linRx =
      .byte 0x00 :: .byte 0x55 :: .byte 0x50 :: ([0x0A] : List Byte).map .byte ++ .byte 0x73 :: [] ∧
    (header 0x50 [.byte 0x0A, .byte 0x73] none (some 1)).env.build = [none] ∧
    (header 0x50 [.byte 0x0A, .byte 0x73] none (some 1)).env.expect = [some ([0x0A] : List Byte).length] := by
  decide

theorem witness_UnknownIdConsumesNothing :
    (header 0xC1 [.byte 0x00] none none).lin.lst = .scanBreak ∧ pidValidate 0xC1 = some 0x01 ∧
    (header 0xC1 [.byte 0x00] none none).env.linRx = [.byte 0x00, .byte 0x55, .byte 0xC1, .byte 0x00] ∧
    (header 0xC1 [.byte 0x00] none none).env.build = [none] ∧ (header 0xC1 [.byte 0x00] none none).env.expect = [none] := by
  decide

theorem witness_FailedByteIsGone :
    (hears (linIn .scanBreak) [.byte 0x00, .byte 0x00, .byte 0x55, .byte 0x50]).lin.lst = .scanBreak ∧
    (pidValidate 0x50).isSome = true ∧
    (hears (linIn .scanBreak) [.byte 0x00, .byte 0x00, .byte 0x55, .byte 0x50]).env.linRx =
      [.byte 0x00, .byte 0x00, .byte 0x55, .byte 0x50] ∧
    (hears (linIn .scanBreak) [.byte 0x00, .byte 0x55, .byte 0x00, .byte 0x55]).env.linRx =
      [.byte 0x00, .byte 0x55, .byte 0x00, .byte 0x55] := by
  decide

theorem witness_LinBytesAct_scanner :
    linHolds (linIn .scanBreak) = true ∧ (linIn .scanBreak).lin.lst = .scanBreak ∧
    linHolds (linIn .scanSync) = true ∧ (linIn .scanSync).lin.lst = .scanSync ∧
    linHolds (handled (linIn .readPid) (some (List.replicate 8 0)) none) = true ∧ (linIn .readPid).lin.lst = .readPid ∧
    (drawBuild 0x20 (handled (linIn .readPid) (some (List.replicate 8 0)) none).env).1 = some (List.replicate 8 0) := by
  decide

theorem witness_LinBytesAct_command :
    linHolds (recv 0x50 (List.replicate 7 1) 8) = true ∧ (recv 0x50 (List.replicate 7 1) 8).lin.cmdCnt = some 7 ∧
    (recv 0x50 (List.replicate 7 1) 8).lin.cmdLen = some 8 ∧
    linHolds (recv 0x80 [] 0) = true ∧ (recv 0x80 [] 0).lin.pid = some 0x80 ∧ (recv 0x80 [] 0).lin.cmdLen = some 0 ∧
    (recv 0x80 [] 0).lin.cmdCnt = some 0 ∧ (recv 0x80 [] 0).lin.cmdBuf.toList.take 0 = [] ∧
    linHolds (respond 0x20 []) = false ∧ linHolds (hears (linIn .scanBreak) [.byte 0x3C]) = false := by
  decide

theorem witness_TransitionIsSelected :
    (hears (linIn .scanBreak) [.byte 0x00]).env.linRx = [.byte 0x00] ∧ (hears (linIn .scanSync) [.byte 0x00]).lin.lst = .scanSync ∧
    (hears (linIn .readPid) [.byte 0x00]).lin.lst = .readPid ∧
    (hears (recv 0x50 [] 1) [.byte 0x00]).lin.cmdCnt = some 0 ∧ (hears (recv 0x50 [] 1) [.byte 0x00]).lin.cmdLen = some 1 ∧
    (hears (recv 0x50 [0x0A] 1) [.byte 0x00]).lin.cmdCnt = some 1 ∧ (recv 0x50 [0x0A] 1).lin.pid = some 0x50 ∧
    (recv 0x50 [0x0A] 1).lin.cmdBuf.toList.take 1 = [some 0x0A] := by
  decide

theorem witness_LinFailureFaults :
    (hears (recv 0x50 [] 1) [.fail]).lin.lst ∈ [Lst.scanBreak, .scanSync, .readPid, .recvCmd] ∧
    (hears (recv 0x50 [] 1) [.fail]).env.linRx = [.fail] ∧
    (respond 0x80 []).lin.lst = .respond ∧ (drawLinTx (linTxIs false (respond 0x80 [])).env).1 = false ∧
    linDown.lin.lst = .faulted := by
  decide

theorem witness_LinFailureFaults_frame : responseFrame (respond 0x80 []).lin = .ok [0x7F] := rfl

theorem witness_StepRunsSelected_host :
    (moves (.host 0x03 [0x50]) State.reset).env.moves = [.host 0x03 [0x50]] ∧ decode (.host 0x03 [0x50]) = .ok (.pidValidate 0x50) :=
  ⟨rfl, rfl⟩

theorem witness_StepRunsSelected_lin :
    (moves .lin (hears (recv 0x50 [0x0A] 1) [.byte 0xA5])).env.moves = [.lin] ∧
    (moves .lin (hears (recv 0x50 [0x0A] 1) [.byte 0xA5])).env.linRx = [.byte 0xA5] ∧
    (recv 0x50 [0x0A] 1).lin.lst ∈ [Lst.scanBreak, .scanSync, .readPid, .recvCmd] ∧
    linSelect (recv 0x50 [0x0A] 1).lin = .ok (.recvCheck 0xA5) ∧
    decode (.linStep (.recvCheck 0xA5) (some 0xA5)) = .ok (.engCmdCkOk 0xA5) ∧
    (moves .lin (dropping 0xC1)).env.moves = [.lin] ∧ (dropping 0xC1).lin.lst = .drop ∧ (respond 0x80 []).lin.lst = .respond :=
  ⟨rfl, rfl, by decide, rfl, rfl, rfl, rfl, rfl⟩

theorem witness_StepRunsSelected_ow :
    (moves .ow (sending 0xA5 7)).env.moves = [.ow] ∧ owFetch (moves .ow (sending 0xA5 7)).ow = some .owCharSlot1 ∧
    owFetch (commanding .start (startProc.drop 5) none).ow = some .dsCmdSkipRom ∧
    owFetch (moves .ow (within .reset resetProc none)).ow = none ∧
    (moves (.linByte 0x55) (linIn .scanSync)).env.moves = [.linByte 0x55] ∧
    linField (moves (.linByte 0x55) (linIn .scanSync)) = some .sync ∧ decodesTo (.linByte .sync 0x55) .linSync = true := by
  decide

theorem witness_HoldsChangeNothing :
    linHolds (linIn .readPid) = true ∧ linDown.lin.lst = .faulted ∧ (rest .b9600).ow.owst = .idle ∧ owDown.ow.owst = .faulted ∧
    owPending (within .reset (resetProc.drop 2) none).ow = some (.rx, none) ∧ (within .reset (resetProc.drop 2) none).env.owRx = [] := by
  decide

theorem witness_ResetsOfTheAgents :
    (moves .restartLin linDown).env.moves = [.restartLin] ∧ (moves .restartOw owDown).env.moves = [.restartOw] ∧
    (moves .resetBlock owDown).env.moves = [.resetBlock] :=
  ⟨rfl, rfl, rfl⟩

theorem witness_LinRowsFrame :
    Instr.format (.engBreakSkip 0xFF) = .linStep ∧ (∃ t, exec (.engBreakSkip 0xFF) (linIn .scanBreak) = .next t) ∧
    Instr.format (.linData 0xFF) = .linByte ∧ (∃ t, exec (.linData 0xFF) (linIn .scanBreak) = .next t) :=
  ⟨rfl, ⟨_, rfl⟩, rfl, ⟨_, rfl⟩⟩

theorem witness_OneWireRowsFrame :
    Instr.format (.owSlot true 0xFF) = .internal ∧ (∃ t, exec (.owSlot true 0xFF) (sending 0xA5 7) = .next t) ∧
    Instr.format .owCharReset = .owChar ∧ (∃ t, exec .owCharReset resetting = .next t) ∧
    Instr.format .dsCmdSkipRom = .dsCmd ∧ (∃ t, exec .dsCmdSkipRom (commanding .start (startProc.drop 5) none) = .next t) :=
  ⟨rfl, ⟨_, rfl⟩, rfl, ⟨_, rfl⟩, rfl, ⟨_, rfl⟩⟩

theorem witness_HostRowsFrame : Instr.format .owReset = .hostReq ∧ Instr.format (.pidParity 0xFF) = .hostReq := ⟨rfl, rfl⟩

/-- Both agents have something to do. -/
def both : State := { hears (sending 0xA5 7) [.byte 0x3C] with lin := { LinAgent.reset with lst := .scanSync } }

theorem witness_AgentTurnsCommute : (∃ t, linTurn both = .next t) ∧ ∃ u, owTurn both = .next u := ⟨⟨_, rfl⟩, ⟨_, rfl⟩⟩

theorem witness_InvariantIsKept : both.Inv ∧ ∃ t, step (moves .ow both) = .next t := ⟨by decide, ⟨_, rfl⟩⟩

theorem witness_StepAlwaysAnswers : (recv 0x50 (List.replicate 8 1) 8).Inv ∧ owDown.Inv ∧ linDown.Inv := by decide

theorem witness_FaultsAreSticky :
    (∃ t, step (moves .restartOw linDown) = .next t) ∧ linDown.lin.lst = .faulted ∧
    (moves .restartOw linDown).env.moves.head? ≠ some .restartLin ∧ (moves .restartOw linDown).env.moves.head? ≠ some .resetBlock ∧
    (∃ t, step (moves .ow owDown) = .next t) ∧ owDown.ow.owst = .faulted ∧
    (moves .ow owDown).env.moves.head? ≠ some .restartOw ∧ (moves .ow owDown).env.moves.head? ≠ some .resetBlock :=
  ⟨⟨_, rfl⟩, rfl, by decide, by decide, ⟨_, rfl⟩, rfl, by decide, by decide⟩

theorem witness_RecordsOnlyGrow :
    (∃ t, step (moves .restartLin both) = .next t) ∧ (moves .restartLin both).env.moves.head? ≠ some .resetBlock :=
  ⟨⟨_, rfl⟩, by decide⟩

theorem witness_OutputsOnlyWhenDue :
    nextHas (step (moves .lin (linTxIs true (respond 0x80 [])))) (fun t => decide (t.lin.trace = [] ++ [.tx [0x7F]])) ∧
    nextHas (step (moves (.linByte 0x7F) (recv 0x80 [] 0))) (fun t => decide (t.lin.trace = [] ++ [.handleCommand 0x00 []])) ∧
    nextHas (step (moves .lin (hears (recv 0x80 [] 0) [.byte 0x7F])))
      (fun t => decide (t.lin.trace = [] ++ [.handleCommand 0x00 []])) := by
  decide

end Sys2Proof.Tests
end

section
/-! Turns of the agents that have nothing to do: when `linFetch` and `owFetch` select no row, and what the turn then is.
Settles O48. -/

namespace Sys2Proof.Machine

/-! ### The LIN agent holds -/

/-- The LIN agent holds where its engine state reads a byte and none is there (42_lin_engine.md R250). -/
theorem linHolds_iff {s : State} : linHolds s = true ↔ s.lin.lst.reads = true ∧ s.env.linRx = [] := by
  simp [linHolds]

/-- In a state that reads a byte, the agent's next transition waits for one. -/
theorem linFetch_of_linHolds {s : State} (h : linHolds s = true) : linFetch s = .hold := by
  obtain ⟨hreads, hrx⟩ := linHolds_iff.1 h
  cases hl : s.lin.lst with
  | scanBreak | scanSync | readPid | recvCmd => simp [linFetch, hl, hrx]
  | respond | drop | faulted => simp [hl, Lst.reads] at hreads

/-- A FAULTED engine has no transition (60_exceptions.md R404). -/
theorem linFetch_faulted {s : State} (h : s.lin.lst = .faulted) : linFetch s = .hold := by
  simp [linFetch, h]

/-- With no transition to make, the LIN agent's turn changes nothing (log entry 23). -/
theorem linTurn_of_hold {s : State} (h : linFetch s = .hold) : linTurn s = .next s := by
  simp [linTurn, h]

/-! ### The OW agent has no step, or waits for a readback -/

/-- Only a BUSY agent has a primitive to make (10_state.md R45). -/
theorem owPending_eq_none_of_not_busy {w : OwAgent} (h : w.owst ≠ .busy) : owPending w = none := by
  cases hw : w.owst with
  | idle | faulted => simp [owPending, hw]
  | busy => exact absurd hw h

/-- Only a BUSY agent makes the step of a row. -/
theorem owFetch_eq_none_of_not_busy {w : OwAgent} (h : w.owst ≠ .busy) : owFetch w = none := by
  simp [owFetch, owPending_eq_none_of_not_busy h]

/-- Where no row is selected, the OW agent's turn is its step. -/
theorem owTurn_of_owFetch_none {s : State} (h : owFetch s.ow = none) : owTurn s = owStep s := by
  simp [owTurn, h]

/-- The turn of an agent that is not BUSY is its step. -/
theorem owTurn_of_not_busy {s : State} (h : s.ow.owst ≠ .busy) : owTurn s = owStep s :=
  owTurn_of_owFetch_none (owFetch_eq_none_of_not_busy h)

/-- `OwRx` holds while no readback is there (00_scope.md R13): not even the pure statements before it take effect. -/
theorem receive_of_owRx_nil {s : State} (k : List Stmt) (w : OwAgent) (h : s.env.owRx = []) : receive k w s = .next s := by
  simp [receive, h]

/-- An agent that comes to an `OwRx` with no readback there does not step. -/
theorem owStep_of_awaited_readback {s : State} {c : Option DsCmd} (hp : owPending s.ow = some (.rx, c))
    (hrx : s.env.owRx = []) : owStep s = .next s := by
  obtain ⟨hbusy, q, k, w, hseq, hsettle⟩ := owPending_eq_some hp
  calc owStep s
      _ = runPrim .rx k q.r w s := owStep_prim hbusy hseq hsettle
      _ = .next s := receive_of_owRx_nil k w hrx

/-! ### The obligation -/

/-- Settles O48: the turns select no row, so nothing runs in them; the step comes to an `OwRx` that holds. -/
theorem holdsChangeNothing : Obligations.HoldsChangeNothing := by
  unfold Obligations.HoldsChangeNothing
  intro s
  refine ⟨fun h => ?linHold, fun h => ?linFaulted, fun h => ?owIdle, fun h => ?owFaulted, fun c hp hrx => ?owRx⟩
  case linHold => exact linTurn_of_hold (linFetch_of_linHolds h)
  case linFaulted => exact linTurn_of_hold (linFetch_faulted h)
  case owIdle => exact (owTurn_of_not_busy (by simp [h])).trans (owStep_idle h)
  case owFaulted => exact (owTurn_of_not_busy (by simp [h])).trans (owStep_faulted h)
  case owRx => exact owStep_of_awaited_readback hp hrx

end Sys2Proof.Machine
end

section
/-! What one step of the LIN agent can do to its elements, said once (`LinAgent.Step`); what of it keeps the agent's invariant and
what it does to the trace. -/

namespace Sys2Proof.Machine

/-! ### The steps -/

/-- The reads of the agent's transition raise `f` (60_exceptions.md R405). -/
def LinAgent.Blocked (l : LinAgent) (f : FaultRec) : Prop :=
  (l.lst = .recvCmd ∧ cmdPhase l = .error (.raise f)) ∨ (l.lst = .respond ∧ responseFrame l = .error (.raise f)) ∨
    (l.lst = .drop ∧ need .linPid l.pid = .error (.raise f))

/-- What one step can make of the LIN agent's elements (42_lin_engine.md R233 to R245). -/
inductive LinAgent.Step (l : LinAgent) : LinAgent → Prop
  | hold : Step l l
  | breakHit (hl : l.lst = .scanBreak) : Step l { l with lst := .scanSync }
  | syncOk (hl : l.lst = .scanSync) : Step l { l with lst := .readPid }
  | dropped (d : DiagRec) (hl : l.lst ∈ [Lst.scanBreak, .scanSync, .readPid, .drop]) :
      Step l { l with lst := .scanBreak, trace := l.trace ++ [.diag d] }
  | answered {b : Byte} {data : List Byte} (hl : l.lst = .readPid) (hb : (pidValidate b).isSome = true)
      (hn : data.length ≤ 8) : Step l (takeResponse b data l)
  | awaited {b : Byte} {n : Nat} (hl : l.lst = .readPid) (hb : (pidValidate b).isSome = true) (hn : n ≤ 8) :
      Step l (awaitCommand b n l)
  | unknown {b : Byte} (hl : l.lst = .readPid) (hb : (pidValidate b).isSome = true) :
      Step l { l with pid := some b, lst := .drop }
  | responded {frame : List Byte} (hl : l.lst = .respond) (hf : responseFrame l = .ok frame) :
      Step l { l with rspLen := none, rspBuf := Vector.replicate 8 none, lst := .scanBreak, trace := l.trace ++ [.tx frame] }
  | received {n : Nat} (b : Byte) (hl : l.lst = .recvCmd) (hp : cmdPhase l = .ok (.data n)) :
      Step l { l with cmdBuf := l.cmdBuf.setIfInBounds n (some b), cmdCnt := some (n + 1) }
  | ended {pid : Byte} {d : List Byte} (e : LinEvent) (hl : l.lst = .recvCmd) (hp : cmdPhase l = .ok (.check pid d)) :
      Step l { l with
        cmdLen := none, cmdCnt := none, cmdBuf := Vector.replicate 8 none, lst := .scanBreak, trace := l.trace ++ [e] }
  | contract (fid : Fid) (hl : l.lst = .readPid) :
      Step l { l with lst := .faulted, fault := keepFirst l.fault (.handlerContract fid) }
  | failed (p : Primitive) (hl : l.lst ≠ .faulted) :
      Step l { l with
        lst := .faulted, fault := keepFirst l.fault (.transportFailure .lin), trace := l.trace ++ [.failed p] }
  | blocked {f : FaultRec} (hf : l.Blocked f) : Step l { l with lst := .faulted, fault := keepFirst l.fault f }

/-! ### Each transition is such a step -/

theorem failLin_step {p : Primitive} {s t : State} (hl : s.lin.lst ≠ .faulted) (h : failLin p s = .next t) :
    s.lin.Step t.lin := by
  cases h; exact .failed p hl

theorem stopLin_step {st : Stop} {s t : State} (hst : ∀ f, st = .raise f → s.lin.Blocked f) (h : stopLin st s = .next t) :
    s.lin.Step t.lin := by
  obtain ⟨f, hf, rfl⟩ := stopLin_eq_next h
  exact .blocked (hst f hf)

/-- A stop of RECV_CMD's reads. -/
theorem stopLin_cmdPhase_step {st : Stop} {s t : State} (hl : s.lin.lst = .recvCmd) (hst : cmdPhase s.lin = .error st)
    (h : stopLin st s = .next t) : s.lin.Step t.lin :=
  stopLin_step (fun _ hf => .inl ⟨hl, hf ▸ hst⟩) h

/-- A transition that answers was selected. -/
theorem next_of_selected {c : Prop} [Decidable c] {u t : State} {r : Refusal}
    (h : (if c then .next u else .refused r : Result) = .next t) : c ∧ t = u := by
  split at h <;> cases h
  exact ⟨‹c›, rfl⟩

theorem execEngBreakHit_step {b : Byte} {s t : State} (h : execEngBreakHit b s = .next t) : s.lin.Step t.lin := by
  obtain ⟨⟨hc, -⟩, rfl⟩ := next_of_selected h
  exact .breakHit hc

theorem execEngBreakSkip_step {b : Byte} {s t : State} (h : execEngBreakSkip b s = .next t) : s.lin.Step t.lin := by
  obtain ⟨⟨hc, -⟩, rfl⟩ := next_of_selected h
  exact .dropped _ (by simp [hc])

theorem execEngSyncOk_step {b : Byte} {s t : State} (h : execEngSyncOk b s = .next t) : s.lin.Step t.lin := by
  obtain ⟨⟨hc, -⟩, rfl⟩ := next_of_selected h
  exact .syncOk hc

theorem execEngSyncBad_step {b : Byte} {s t : State} (h : execEngSyncBad b s = .next t) : s.lin.Step t.lin := by
  obtain ⟨⟨hc, -⟩, rfl⟩ := next_of_selected h
  exact .dropped _ (by simp [hc])

theorem execEngPidBad_step {b : Byte} {s t : State} (h : execEngPidBad b s = .next t) : s.lin.Step t.lin := by
  obtain ⟨⟨hc, -⟩, rfl⟩ := next_of_selected h
  exact .dropped _ (by simp [hc])

theorem dispatchPid_step {b : Byte} {fid : Fid} {s t : State} (hl : s.lin.lst = .readPid)
    (hb : (pidValidate b).isSome = true) (h : dispatchPid b fid s = .next t) : s.lin.Step t.lin := by
  unfold dispatchPid at h
  split at h
  · split at h
    · cases h; exact .contract fid hl
    · next hn => cases h; exact .answered hl hb (Nat.le_of_not_lt hn)
  · split at h
    · split at h
      · cases h; exact .contract fid hl
      · next hn => cases h; exact .awaited hl hb (Nat.le_of_not_lt hn)
    · cases h; exact .unknown hl hb

theorem execEngPidOk_step {b : Byte} {s t : State} (h : execEngPidOk b s = .next t) : s.lin.Step t.lin := by
  unfold execEngPidOk at h
  split at h
  · next hl =>
    split at h
    · next fid hb => exact dispatchPid_step hl (by simp [hb]) h
    · cases h
  · cases h

theorem execEngRespond_step {s t : State} (h : execEngRespond s = .next t) : s.lin.Step t.lin := by
  unfold execEngRespond at h
  split at h
  · next hl =>
    split at h
    · next st hst => exact stopLin_step (fun _ hf => .inr (.inl ⟨hl, hf ▸ hst⟩)) h
    · next frame hf =>
      split at h
      · next env _ => exact failLin_step (s := { s with env := env }) (by simp [hl]) h
      · cases h; exact .responded hl hf
  · cases h

theorem execEngCmdData_step {b : Byte} {s t : State} (h : execEngCmdData b s = .next t) : s.lin.Step t.lin := by
  unfold execEngCmdData at h
  split at h
  · next hl =>
    split at h
    · next hst => exact stopLin_cmdPhase_step hl hst h
    · next hp =>
      split at h <;> cases h
      exact .received b hl hp
    · cases h
  · cases h

theorem execEngCmdCkOk_step {b : Byte} {s t : State} (h : execEngCmdCkOk b s = .next t) : s.lin.Step t.lin := by
  unfold execEngCmdCkOk at h
  split at h
  · next hl =>
    split at h
    · next hst => exact stopLin_cmdPhase_step hl hst h
    · cases h
    · next hp =>
      split at h <;> cases h
      exact .ended _ hl hp
  · cases h

theorem execEngCmdCkBad_step {b : Byte} {s t : State} (h : execEngCmdCkBad b s = .next t) : s.lin.Step t.lin := by
  unfold execEngCmdCkBad at h
  split at h
  · next hl =>
    split at h
    · next hst => exact stopLin_cmdPhase_step hl hst h
    · cases h
    · next hp =>
      split at h <;> cases h
      exact .ended _ hl hp
  · cases h

theorem execEngDrop_step {s t : State} (h : execEngDrop s = .next t) : s.lin.Step t.lin := by
  unfold execEngDrop at h
  split at h
  · next hl =>
    split at h
    · next hst => exact stopLin_step (fun _ hf => .inr (.inr ⟨hl, hf ▸ hst⟩)) h
    · cases h; exact .dropped _ (by simp [hl])
  · cases h

theorem linTransition_step {b : Byte} {s t : State} (h : linTransition b s = .next t) : s.lin.Step t.lin := by
  unfold linTransition at h
  split at h
  · split at h
    · exact execEngBreakHit_step h
    · exact execEngBreakSkip_step h
  · split at h
    · exact execEngSyncOk_step h
    · exact execEngSyncBad_step h
  · split at h
    · exact execEngPidOk_step h
    · exact execEngPidBad_step h
  · next hl =>
    split at h
    · next hst => exact stopLin_cmdPhase_step hl hst h
    · exact execEngCmdData_step h
    · split at h
      · exact execEngCmdCkOk_step h
      · exact execEngCmdCkBad_step h
  all_goals cases h; exact .hold

/-- A byte that arrives is read at once or kept by the transport (10_state.md R50). -/
theorem deliver_step {b : Byte} {s t : State} (h : deliver b s = .next t) : s.lin.Step t.lin := by
  unfold deliver at h
  split at h
  · exact linTransition_step h
  · cases h; exact .hold

end Sys2Proof.Machine
end

section
/-! The LIN agent's invariant over its steps. -/

namespace Sys2Proof.Machine

/-! ### The buffers -/

theorem exactly_iff {buf : Vector (Option Byte) 8} {n : Nat} :
    exactly buf n = true ↔
      n ≤ 8 ∧ (buf.toList.take n).all Option.isSome = true ∧ (buf.toList.drop n).all Option.isNone = true := by
  simp only [exactly, Bool.and_eq_true, decide_eq_true_eq, and_assoc]

/-- An emptied buffer holds nothing. -/
@[simp] theorem exactly_replicate_none : exactly (Vector.replicate 8 none) 0 = true := by decide

/-- Bytes written to the start of an empty buffer are all it holds. -/
theorem exactly_writeBytes {buf : Vector (Option Byte) 8} {bs : List Byte} (hb : exactly buf 0 = true)
    (hn : bs.length ≤ 8) : exactly (writeBytes buf 0 bs) bs.length = true := by
  obtain ⟨-, -, hempty⟩ := exactly_iff.1 hb
  refine exactly_iff.2 ⟨hn, ?_, ?_⟩
  all_goals rw [writeBytes_toList _ _ _ (by omega)]
  · simp
  · simpa using fun x hx => by simpa using List.all_eq_true.1 hempty x (List.mem_of_mem_drop hx)

/-- Writing an element of a buffer that is all written leaves it so. -/
theorem all_isSome_setIfInBounds {n : Nat} (buf : Vector (Option Byte) n) (i : Nat) (b : Byte)
    (h : buf.toList.all Option.isSome = true) : (buf.setIfInBounds i (some b)).toList.all Option.isSome = true := by
  rw [Vector.toList_setIfInBounds]
  refine List.all_eq_true.2 fun x hx => ?_
  obtain hx | rfl := List.mem_or_eq_of_mem_set hx
  · exact List.all_eq_true.1 h x hx
  · rfl

/-- One more element behind those written from the start. -/
theorem all_isSome_take_setIfInBounds {n i : Nat} {buf : Vector (Option Byte) n} (b : Byte) (hi : i < n)
    (h : (buf.toList.take i).all Option.isSome = true) :
    ((buf.setIfInBounds i (some b)).toList.take (i + 1)).all Option.isSome = true := by
  have hl : i < buf.toList.length := by simpa using hi
  rw [Vector.toList_setIfInBounds, List.take_add_one, List.take_set_of_le (Nat.le_refl i), List.getElem?_set_self hl]
  simpa using h

/-- One more byte behind those that a buffer holds. -/
theorem exactly_setIfInBounds {buf : Vector (Option Byte) 8} {n : Nat} (b : Byte) (hb : exactly buf n = true) (hn : n < 8) :
    exactly (buf.setIfInBounds n (some b)) (n + 1) = true := by
  obtain ⟨-, hwritten, hempty⟩ := exactly_iff.1 hb
  have hl : n < buf.toList.length := by simpa using hn
  refine exactly_iff.2 ⟨hn, all_isSome_take_setIfInBounds b hn hwritten, ?_⟩
  rw [List.drop_eq_getElem_cons hl, List.all_cons, Bool.and_eq_true] at hempty
  rw [Vector.toList_setIfInBounds, List.drop_set_of_lt (Nat.lt_succ_self n)]
  exact hempty.2

/-- A written buffer can be read. -/
theorem readPrefix_of_exactly {buf : Vector (Option Byte) 8} {n : Nat} (e : Elem) (h : exactly buf n = true) :
    ∃ bs, readPrefix e buf n = .ok bs := by
  obtain ⟨hn, hwritten, -⟩ := exactly_iff.1 h
  exact readPrefix_of_all hn hwritten

/-! ### What the invariant says in each engine state -/

/-- `LIN.PID` is a valid PID or empty (10_state.md R36). -/
def LinAgent.PidOk (l : LinAgent) : Prop := l.pid.all (fun p => (pidValidate p).isSome) = true

theorem LinAgent.noResponse_iff {l : LinAgent} : l.noResponse = true ↔ l.rspLen = none ∧ exactly l.rspBuf 0 = true := by
  simp [LinAgent.noResponse]

theorem LinAgent.noCommand_iff {l : LinAgent} :
    l.noCommand = true ↔ l.cmdLen = none ∧ l.cmdCnt = none ∧ exactly l.cmdBuf 0 = true := by
  simp [LinAgent.noCommand, and_assoc]

/-- The states of the scanner (10_state.md R37, R38). -/
theorem LinAgent.ok_scanning_iff {l : LinAgent} (hl : l.lst ∈ [Lst.scanBreak, .scanSync, .readPid]) :
    l.ok = true ↔ l.PidOk ∧ l.fault = none ∧ l.noResponse = true ∧ l.noCommand = true := by
  simp only [List.mem_cons, List.not_mem_nil, or_false] at hl
  obtain hl | hl | hl := hl <;> simp +contextual [LinAgent.ok, LinAgent.phaseOk, LinAgent.PidOk, hl, and_assoc]

/-- RESPOND (10_state.md R37). -/
theorem LinAgent.ok_respond_iff {l : LinAgent} (hl : l.lst = .respond) :
    l.ok = true ↔ l.PidOk ∧ l.fault = none ∧ (∃ pid, l.pid = some pid) ∧
      (∃ len, l.rspLen = some len ∧ exactly l.rspBuf len = true) ∧ l.noCommand = true := by
  simp +contextual [LinAgent.ok, LinAgent.phaseOk, LinAgent.PidOk, hl, and_assoc, Option.isSome_iff_exists,
    Option.any_eq_true]

/-- RECV_CMD (10_state.md R38). -/
theorem LinAgent.ok_recvCmd_iff {l : LinAgent} (hl : l.lst = .recvCmd) :
    l.ok = true ↔ l.PidOk ∧ l.fault = none ∧ (∃ pid, l.pid = some pid) ∧ l.noResponse = true ∧
      ∃ len, l.cmdLen = some len ∧ ∃ cnt, l.cmdCnt = some cnt ∧ cnt ≤ len ∧ len ≤ 8 ∧ exactly l.cmdBuf cnt = true := by
  simp +contextual [LinAgent.ok, LinAgent.phaseOk, LinAgent.PidOk, hl, and_assoc, Option.isSome_iff_exists,
    Option.any_eq_true]

/-- DROP (10_state.md R36 to R38). -/
theorem LinAgent.ok_drop_iff {l : LinAgent} (hl : l.lst = .drop) :
    l.ok = true ↔ l.PidOk ∧ l.fault = none ∧ (∃ pid, l.pid = some pid) ∧ l.noResponse = true ∧ l.noCommand = true := by
  simp +contextual [LinAgent.ok, LinAgent.phaseOk, LinAgent.PidOk, hl, and_assoc, Option.isSome_iff_exists]

/-- The record that stands is not F04 if neither the old one nor the new one is. -/
theorem keepFirst_notUnwritten {o : Option FaultRec} {f : FaultRec} (ho : o.all notUnwritten = true)
    (hf : notUnwritten f = true) : (keepFirst o f).all notUnwritten = true := by
  cases o with
  | none => exact hf
  | some g => exact ho

/-- FAULTED, with a record that is not F04 (60_exceptions.md R404, R405). -/
theorem LinAgent.ok_faulted {l : LinAgent} {f : FaultRec} (h : l.ok = true) (hf : notUnwritten f = true)
    (tr : List LinEvent) : ({ l with lst := .faulted, fault := keepFirst l.fault f, trace := tr } : LinAgent).ok = true := by
  simp only [LinAgent.ok, Bool.and_eq_true] at h
  obtain ⟨⟨hpid, hfault⟩, -⟩ := h
  simp only [LinAgent.ok, LinAgent.phaseOk, Bool.and_eq_true]
  exact ⟨⟨hpid, keepFirst_notUnwritten hfault hf⟩, keepFirst_isSome ..⟩

/-! ### No read of a transition stops -/

/-- The reads of RECV_CMD go through. -/
theorem LinAgent.cmdPhase_of_ok {l : LinAgent} (h : l.ok = true) (hl : l.lst = .recvCmd) : ∃ p, cmdPhase l = .ok p := by
  obtain ⟨-, -, ⟨pid, hpid⟩, -, len, hlen, cnt, hcnt, hle, -, hbuf⟩ := (ok_recvCmd_iff hl).1 h
  obtain hlt | rfl := Nat.lt_or_eq_of_le hle
  · exact ⟨_, cmdPhase_data hcnt hlen hlt⟩
  · obtain ⟨d, hd⟩ := readPrefix_of_exactly .linCmdBuf hbuf
    exact ⟨_, cmdPhase_check hcnt hlen hd hpid⟩

/-- The reads of RESPOND go through. -/
theorem LinAgent.responseFrame_of_ok {l : LinAgent} (h : l.ok = true) (hl : l.lst = .respond) :
    ∃ frame, responseFrame l = .ok frame := by
  obtain ⟨-, -, ⟨pid, hpid⟩, ⟨len, hlen, hbuf⟩, -⟩ := (ok_respond_iff hl).1 h
  obtain ⟨d, hd⟩ := readPrefix_of_exactly .linRspBuf hbuf
  exact ⟨_, responseFrame_ok hlen hd hpid⟩

/-- No transition raises F04 in a state of the invariant (60_exceptions.md R405). -/
theorem LinAgent.not_blocked_of_ok {l : LinAgent} {f : FaultRec} (h : l.ok = true) : ¬ l.Blocked f := by
  rintro (⟨hl, hf⟩ | ⟨hl, hf⟩ | ⟨hl, hf⟩)
  · obtain ⟨p, hp⟩ := cmdPhase_of_ok h hl
    cases hp.symm.trans hf
  · obtain ⟨frame, hframe⟩ := responseFrame_of_ok h hl
    cases hframe.symm.trans hf
  · obtain ⟨-, -, ⟨pid, hpid⟩, -⟩ := (ok_drop_iff hl).1 h
    simp [hpid] at hf

/-- A data byte is awaited at the count, below the length. -/
theorem cmdPhase_eq_data {l : LinAgent} {n : Nat} (h : cmdPhase l = .ok (.data n)) :
    l.cmdCnt = some n ∧ ∃ len, l.cmdLen = some len ∧ n < len := by
  obtain ⟨cnt, hcnt, h⟩ := bind_eq_ok h
  obtain ⟨len, hlen, h⟩ := bind_eq_ok h
  split at h
  · cases h; exact ⟨need_eq_ok.1 hcnt, len, need_eq_ok.1 hlen, ‹_›⟩
  · split at h
    · obtain ⟨d, -, h⟩ := bind_eq_ok h
      obtain ⟨pid, -, h⟩ := bind_eq_ok h
      cases h
    · cases h

/-! ### Every step keeps the invariant, and adds to the trace -/

/-- The agent at reset meets the invariant, with whatever trace. -/
theorem LinAgent.ok_reset (tr : List LinEvent) : ({ LinAgent.reset with trace := tr } : LinAgent).ok = true := rfl

/-- What dropping a frame relies on: nothing of a response or a command is held. -/
theorem LinAgent.ok_of_droppable {l : LinAgent} (h : l.ok = true)
    (hl : l.lst ∈ [Lst.scanBreak, .scanSync, .readPid, .drop]) :
    l.PidOk ∧ l.fault = none ∧ l.noResponse = true ∧ l.noCommand = true := by
  obtain hl | hl : l.lst ∈ [Lst.scanBreak, .scanSync, .readPid] ∨ l.lst = .drop := by simpa [or_assoc] using hl
  · exact (ok_scanning_iff hl).1 h
  · obtain ⟨hpid, hfault, -, hrsp, hcmd⟩ := (ok_drop_iff hl).1 h
    exact ⟨hpid, hfault, hrsp, hcmd⟩

theorem LinAgent.Step.ok {l l' : LinAgent} (hs : l.Step l') (h : l.ok = true) : l'.ok = true := by
  cases hs with
  | hold => exact h
  | breakHit hl =>
    have hscan := (ok_scanning_iff (by simp [hl])).1 h
    exact (ok_scanning_iff (by simp)).2 hscan
  | syncOk hl =>
    have hscan := (ok_scanning_iff (by simp [hl])).1 h
    exact (ok_scanning_iff (by simp)).2 hscan
  | dropped d hl =>
    have hscan := ok_of_droppable h hl
    exact (ok_scanning_iff (by simp)).2 hscan
  | answered hl hb hn =>
    obtain ⟨-, hfault, hrsp, hcmd⟩ := (ok_scanning_iff (by simp [hl])).1 h
    exact (ok_respond_iff rfl).2
      ⟨hb, hfault, ⟨_, rfl⟩, ⟨_, rfl, exactly_writeBytes (noResponse_iff.1 hrsp).2 hn⟩, hcmd⟩
  | awaited hl hb hn =>
    obtain ⟨-, hfault, hrsp, hcmd⟩ := (ok_scanning_iff (by simp [hl])).1 h
    exact (ok_recvCmd_iff rfl).2
      ⟨hb, hfault, ⟨_, rfl⟩, hrsp, _, rfl, _, rfl, Nat.zero_le _, hn, (noCommand_iff.1 hcmd).2.2⟩
  | unknown hl hb =>
    obtain ⟨-, hfault, hrsp, hcmd⟩ := (ok_scanning_iff (by simp [hl])).1 h
    exact (ok_drop_iff rfl).2 ⟨hb, hfault, ⟨_, rfl⟩, hrsp, hcmd⟩
  | responded hl _ =>
    obtain ⟨hpid, hfault, -, -, hcmd⟩ := (ok_respond_iff hl).1 h
    exact (ok_scanning_iff (by simp)).2 ⟨hpid, hfault, noResponse_iff.2 ⟨rfl, exactly_replicate_none⟩, hcmd⟩
  | received b hl hp =>
    obtain ⟨hpid, hfault, hsome, hrsp, len, hlen, cnt, hcnt, -, hmax, hbuf⟩ := (ok_recvCmd_iff hl).1 h
    obtain ⟨hn, len', hlen', hlt⟩ := cmdPhase_eq_data hp
    obtain rfl := Option.some.inj (hcnt.symm.trans hn)
    obtain rfl := Option.some.inj (hlen.symm.trans hlen')
    have hbuf' := exactly_setIfInBounds b hbuf (by omega)
    exact (ok_recvCmd_iff (by exact hl)).2
      ⟨hpid, hfault, hsome, hrsp, _, hlen, _, rfl, hlt, hmax, hbuf'⟩
  | ended e hl _ =>
    obtain ⟨hpid, hfault, -, hrsp, -⟩ := (ok_recvCmd_iff hl).1 h
    exact (ok_scanning_iff (by simp)).2 ⟨hpid, hfault, hrsp, noCommand_iff.2 ⟨rfl, rfl, exactly_replicate_none⟩⟩
  | contract fid _ => exact ok_faulted h rfl l.trace
  | failed p _ => exact ok_faulted h rfl _
  | blocked hf => exact absurd hf (not_blocked_of_ok h)

theorem LinAgent.Step.trace_grows {l l' : LinAgent} (hs : l.Step l') : l.trace <+: l'.trace := by
  cases hs with
  | hold | breakHit | syncOk | answered | awaited | unknown | received | contract | blocked => exact List.prefix_rfl
  | dropped | responded | ended | failed => exact List.prefix_append ..

end Sys2Proof.Machine
end

section
/-! What a step of the OW agent does to its invariant. A procedure that is running (`Running`) reads only written elements, so the
pure statements never stop (`settle_sound`), and each primitive leaves it running, ends it or faults the agent. -/

namespace Sys2Proof.Machine

/-! ### What is known -/

/-- The elements that are all written or all `⊥` agree, and the others are at least as well known. -/
structure Known.Le (K K' : Known) : Prop where
  byte : K'.byte = K.byte
  idx : K'.idx = K.idx
  slotOpen : K.slotOpen = true → K'.slotOpen = true
  r : K.r = true → K'.r = true
  pres : K.pres = true → K'.pres = true
  result : K.result = true → K'.result = true
  room : K.room = true → K'.room = true
  full : K.full = true → K'.full = true
  verdict : K.verdict = true → K'.verdict = true

/-- A procedure that is covered stays so when more is known. -/
theorem covers_mono {op : OwOp} {k : List Stmt} {K K' : Known} (hle : K.Le K') (h : covers op K k = true) :
    covers op K' k = true := by
  induction k generalizing K K' with
  | nil =>
    obtain ⟨hbyte, hidx, -, -, hpres, hresult, -, -, hverdict⟩ := hle
    cases op <;> simp_all [covers]
  | cons i k ih =>
    have ⟨hbyte, hidx, hslot, hr, hpres, hresult, hroom, hfull, hverdict⟩ := hle
    cases i <;> simp only [covers, Bool.and_eq_true, hbyte, hidx] at h ⊢
    case setBaud | txReset | delay => exact ih hle h
    case rx | load | command | idxZero => exact ih (by constructor <;> simp_all) h
    all_goals
      obtain ⟨hreads, hrest⟩ := h
      refine ⟨?reads, ih ?rest hrest⟩
      case reads => simp_all
      case rest => constructor <;> simp_all

/-- The operations and their procedures (43_onewire.md R301 to R305, 44_ds18b20_crc8.md R344, R346). -/
inductive Procedure : OwOp → List Stmt → Prop
  | reset : Procedure .reset resetProc
  | wrb (x : Byte) : Procedure .wrb (byteProc x)
  | rb : Procedure .rb (byteProc 0xFF)
  | wb (x : Byte) : Procedure .wb (byteProc x)
  | start : Procedure .start startProc
  | rawTemp : Procedure .rawTemp rawTempProc

/-- Nothing is known. -/
def Known.nothing : Known := ⟨false, false, false, false, false, false, false, false, false⟩

/-- Every procedure writes the elements it reads, itself. -/
theorem Procedure.covered {op : OwOp} {proc : List Stmt} (h : Procedure op proc) :
    covers op .nothing proc = true := by
  cases h <;> rfl

/-! ### The ranges of the working elements -/

theorem rangesOk_iff {w : OwAgent} :
    w.rangesOk = true ↔ w.txb.isSome = w.bit.isSome ∧ w.rxb.isSome = w.bit.isSome ∧ (∀ n, w.bit = some n → n ≤ 8) ∧
      ∀ n, w.idx = some n → n ≤ 9 ∧ (w.sp.toList.take n).all Option.isSome = true := by
  simp [OwAgent.rangesOk, Option.all_eq_true, and_assoc]

/-- The elements of a byte are written or `⊥` together. -/
theorem known_byte {w : OwAgent} (r : Option Byte) (h : w.rangesOk = true) : (known w r).byte = w.bit.isSome := by
  obtain ⟨htxb, hrxb, -⟩ := rangesOk_iff.1 h
  simp [known, htxb, hrxb]

/-- The scratchpad's nine elements are all of it (10_state.md R43). -/
theorem take_nine {α : Type} (v : Vector α 9) : v.toList.take 9 = v.toList := List.take_of_length_le (by simp)

/-- A loaded byte is within range. -/
theorem rangesOk_loadByte {w : OwAgent} (x : Byte) (h : w.rangesOk = true) : (loadByte x w).rangesOk = true := by
  obtain ⟨-, -, -, hidx⟩ := rangesOk_iff.1 h
  exact rangesOk_iff.2 ⟨rfl, rfl, by simp, hidx⟩

/-- Where a byte is known, its three elements are written. -/
theorem written_of_known_byte {w : OwAgent} {r : Option Byte} (h : (known w r).byte = true) :
    ∃ x v n, w.txb = some x ∧ w.rxb = some v ∧ w.bit = some n := by
  simp only [known, Bool.and_eq_true, Option.isSome_iff_exists] at h
  obtain ⟨⟨⟨x, hx⟩, v, hv⟩, n, hn⟩ := h
  exact ⟨x, v, n, hx, hv, hn⟩

/-! ### A procedure that is running -/

/-- The agent is in operation `o`, and the rest `k` of its procedure, with readback `r`, reads only written elements. -/
structure Running (o : OwOp) (r : Option Byte) (k : List Stmt) (w : OwAgent) : Prop where
  busy : w.owst = .busy
  noFault : w.fault = none
  op : w.op = some o
  covered : covers o (known w r) k = true
  ranges : w.rangesOk = true

namespace Running

variable {o : OwOp} {r : Option Byte} {k : List Stmt} {w : OwAgent}

/-- A procedure reads neither the rate nor the trace nor its own rest. -/
theorem aside (h : Running o r k w) (q : Option Seq) (b : Baud) (tr : List OwEvent) :
    Running o r k { w with seq := q, baud := b, trace := tr } :=
  { h with covered := h.covered }

/-- With a readback, no less is written. -/
theorem readback (h : Running o r k w) (b : Byte) : Running o (some b) k w :=
  { h with covered := covers_mono (by constructor <;> simp [known]) h.covered }

theorem presence (h : Running o r (.presence :: k) w) : ∃ v, presenceStmt r w = .ok v ∧ Running o r k v := by
  obtain ⟨hr, hk⟩ := (Bool.and_eq_true _ _).mp h.covered
  obtain ⟨c, rfl⟩ := Option.isSome_iff_exists.1 hr
  simp only [presenceStmt, need_some, bind, Except.bind]
  split
  · exact ⟨_, rfl, { h with covered := hk }⟩
  · exact ⟨_, rfl, { h with covered := hk }⟩

theorem load {x : Byte} (h : Running o r (.load x :: k) w) : Running o r k (loadByte x w) :=
  { h with covered := h.covered, ranges := rangesOk_loadByte x h.ranges }

theorem store (h : Running o r (.store :: k) w) : ∃ v, storeStmt r w = .ok v ∧ Running o r k v := by
  have hc := h.covered
  simp only [covers, Bool.and_eq_true] at hc
  obtain ⟨⟨⟨hr, hbyte⟩, hslot⟩, hk⟩ := hc
  obtain ⟨c, rfl⟩ := Option.isSome_iff_exists.1 hr
  obtain ⟨x, v, n, hx, hv, hn⟩ := written_of_known_byte hbyte
  have hlt : n < 8 := by simpa [known, hn] using hslot
  obtain ⟨-, -, -, hidx⟩ := rangesOk_iff.1 h.ranges
  refine ⟨{ w with rxb := some (putBit v (slotBit c) n), bit := some (n + 1) },
    by simp [storeStmt, hv, hn, bind, Except.bind], { h with covered := ?covered, ranges := ?ranges }⟩
  case covered => exact covers_mono (by constructor <;> simp [known, hx, hv, hn]) hk
  case ranges => exact rangesOk_iff.2 ⟨by simp [hx], rfl, by simpa using hlt, hidx⟩

theorem unload (h : Running o r (.unload :: k) w) : ∃ v, unloadStmt w = .ok v ∧ Running o r k v := by
  obtain ⟨hbyte, hk⟩ := (Bool.and_eq_true _ _).mp h.covered
  obtain ⟨x, v, n, hx, hv, hn⟩ := written_of_known_byte hbyte
  obtain ⟨-, -, -, hidx⟩ := rangesOk_iff.1 h.ranges
  refine ⟨{ w with result := some v, txb := none, rxb := none, bit := none },
    by simp [unloadStmt, hv, bind, Except.bind], { h with covered := hk, ranges := ?ranges }⟩
  case ranges => exact rangesOk_iff.2 ⟨rfl, rfl, by simp, hidx⟩

theorem idxZero (h : Running o r (.idxZero :: k) w) : Running o r k { w with idx := some 0 } := by
  obtain ⟨htxb, hrxb, hbit, -⟩ := rangesOk_iff.1 h.ranges
  exact { h with covered := h.covered, ranges := rangesOk_iff.2 ⟨htxb, hrxb, hbit, by simp⟩ }

theorem storeByte (h : Running o r (.storeByte :: k) w) : ∃ v, storeByteStmt w = .ok v ∧ Running o r k v := by
  have hc := h.covered
  simp only [covers, Bool.and_eq_true] at hc
  obtain ⟨⟨⟨hresult, hidx⟩, hroom⟩, hk⟩ := hc
  obtain ⟨b, hb⟩ := Option.isSome_iff_exists.1 hresult
  obtain ⟨n, hn⟩ := Option.isSome_iff_exists.1 hidx
  have hlt : n < 9 := by simpa [known, hn] using hroom
  obtain ⟨htxb, hrxb, hbit, hsp⟩ := rangesOk_iff.1 h.ranges
  refine ⟨{ w with sp := w.sp.setIfInBounds n (some b), idx := some (n + 1) },
    by simp [storeByteStmt, hb, hn, Config.spLen, hlt, bind, Except.bind], { h with covered := ?covered, ranges := ?ranges }⟩
  case covered =>
    refine covers_mono ?_ hk
    constructor
    case full => exact all_isSome_setIfInBounds w.sp n b
    all_goals simp [known, hn]
  case ranges =>
    refine rangesOk_iff.2 ⟨htxb, hrxb, hbit, fun m hm => ?_⟩
    cases hm
    exact ⟨hlt, all_isSome_take_setIfInBounds b hlt (hsp n hn).2⟩

theorem verdict (h : Running o r (.verdict :: k) w) : ∃ v, verdictStmt w = .ok v ∧ Running o r k v := by
  obtain ⟨hfull, hk⟩ := (Bool.and_eq_true _ _).mp h.covered
  obtain ⟨htxb, hrxb, hbit, -⟩ := rangesOk_iff.1 h.ranges
  obtain ⟨sp, hsp⟩ := readPrefix_of_all (e := .dsSp) (buf := w.sp) (len := 9) (Nat.le_refl 9)
    (by rw [take_nine]; exact hfull)
  simp only [verdictStmt, Config.spLen, hsp, bind, Except.bind]
  split
  · exact ⟨_, rfl, { h with covered := hk, ranges := rangesOk_iff.2 ⟨htxb, hrxb, hbit, by simp⟩ }⟩
  · exact ⟨_, rfl, { h with covered := hk, ranges := rangesOk_iff.2 ⟨htxb, hrxb, hbit, by simp⟩ }⟩

/-- The loop over the slots reads `OW.TXB` and `OW.BIT`. -/
theorem slots_written (h : Running o r (.slots :: k) w) : ∃ x n, w.txb = some x ∧ w.bit = some n := by
  obtain ⟨hbyte, -⟩ := (Bool.and_eq_true _ _).mp h.covered
  obtain ⟨x, -, n, hx, -, hn⟩ := written_of_known_byte hbyte
  exact ⟨x, n, hx, hn⟩

/-- The loop over the scratchpad reads `DS.IDX`. -/
theorem readBytes_written (h : Running o r (.readBytes :: k) w) : ∃ n, w.idx = some n := by
  have hc := h.covered
  simp only [covers, Bool.and_eq_true] at hc
  obtain ⟨⟨hidx, -⟩, -⟩ := hc
  exact Option.isSome_iff_exists.1 hidx

/-- A byte with a slot to come: the slot, its readback and the storing. -/
theorem slot (h : Running o r (.slots :: k) w) {n : Nat} (hn : w.bit = some n) (hlt : n < 8) :
    Running o r (.rx :: .store :: .slots :: k) w := by
  obtain ⟨hbyte, hk⟩ := (Bool.and_eq_true _ _).mp h.covered
  refine { h with covered := ?_ }
  simp only [covers, Bool.and_eq_true]
  refine ⟨⟨⟨trivial, hbyte⟩, by simpa [known, hn] using hlt⟩, hbyte, ?_⟩
  exact covers_mono (by constructor <;> simp) hk

/-- A byte whose slots are over. -/
theorem afterSlots (h : Running o r (.slots :: k) w) : Running o r k w := by
  obtain ⟨-, hk⟩ := (Bool.and_eq_true _ _).mp h.covered
  exact { h with covered := covers_mono (by constructor <;> simp) hk }

/-- A scratchpad byte to come: its first slot, the others, and the storing. -/
theorem firstSlot (h : Running o r (.readBytes :: k) w) {n : Nat} (hn : w.idx = some n) (hlt : n < 9) :
    Running o r (.rx :: .store :: .slots :: .unload :: .storeByte :: .readBytes :: k) (Machine.loadByte 0xFF w) := by
  have hc := h.covered
  simp only [covers, Bool.and_eq_true, Bool.not_eq_true'] at hc
  obtain ⟨⟨hidx, hbyte⟩, hk⟩ := hc
  have hbit : w.bit = none := by simpa [known_byte r h.ranges] using hbyte
  refine { h with covered := ?_, ranges := rangesOk_loadByte _ h.ranges }
  have hroom : (known (Machine.loadByte 0xFF w) r).room = true := by simpa [known, hn] using hlt
  simp only [covers, Bool.and_eq_true]
  refine ⟨⟨⟨trivial, rfl⟩, rfl⟩, rfl, rfl, ⟨⟨trivial, hidx⟩, hroom⟩, ⟨hidx, rfl⟩, ?_⟩
  exact covers_mono (by constructor <;> simp [known, hbit]) hk

/-- All scratchpad bytes read. -/
theorem afterBytes (h : Running o r (.readBytes :: k) w) {n : Nat} (hn : w.idx = some n) (hge : ¬ n < 9) :
    Running o r k w := by
  obtain ⟨-, hk⟩ := (Bool.and_eq_true _ _).mp h.covered
  obtain ⟨-, -, -, hidx⟩ := rangesOk_iff.1 h.ranges
  obtain ⟨hle, hsp⟩ := hidx n hn
  obtain rfl : n = 9 := by omega
  have hfull : w.sp.toList.all Option.isSome = true := take_nine w.sp ▸ hsp
  exact { h with covered := covers_mono (by constructor <;> simp [known, hfull]) hk }

/-- At the end of a procedure the value is there to return. -/
theorem returnValue (h : Running o r [] w) : ∃ v, Machine.returnValue w = .ok (o, v) := by
  obtain ⟨-, hvalue⟩ := (Bool.and_eq_true _ _).mp h.covered
  cases o with
  | reset | wrb | rb | rawTemp =>
    obtain ⟨v, hv⟩ := Option.isSome_iff_exists.1 hvalue
    simp [Machine.returnValue, h.op, hv, bind, Except.bind]
  | wb | start => simp [Machine.returnValue, h.op, bind, Except.bind]

/-- At the end of a procedure the working elements are `⊥` (43_onewire.md R310). -/
theorem working_none (h : Running o r [] w) : w.bit = none ∧ w.idx = none := by
  have hc := h.covered
  simp only [covers, Bool.and_eq_true, Bool.not_eq_true', known_byte r h.ranges] at hc
  obtain ⟨⟨hbit, hidx⟩, -⟩ := hc
  exact ⟨by simpa using hbit, by simpa [known] using hidx⟩

end Running

/-! ### The pure statements never stop -/

/-- The first slot of a scratchpad byte is sent while `DS.IDX` is below 9 (44_ds18b20_crc8.md R346). -/
theorem settle_readBytes_lt {r : Option Byte} {c : Option DsCmd} {k : List Stmt} {w : OwAgent} {n : Nat}
    (hi : w.idx = some n) (hn : n < Config.spLen) :
    settle r c (.readBytes :: k) w =
      .prim (.txSlot true) (.rx :: .store :: .slots :: .unload :: .storeByte :: .readBytes :: k) (loadByte 0xFF w) none := by
  simp [settle, hi, hn]

/-- The scratchpad is read when `DS.IDX` is 9. -/
theorem settle_readBytes_ge {r : Option Byte} {c : Option DsCmd} {k : List Stmt} {w : OwAgent} {n : Nat}
    (hi : w.idx = some n) (hn : ¬ n < Config.spLen) : settle r c (.readBytes :: k) w = settle r none k w := by
  simp [settle, hi, hn]

/-- Where a running procedure may lead: to a primitive after which it runs on, with whatever readback `OwRx` gives, or to its
end. -/
def Settled.Sound (o : OwOp) (r : Option Byte) : Settled → Prop
  | .prim p k w _ => (p ≠ .rx → Running o r k w) ∧ ∀ b, Running o (some b) k w
  | .done _ _ w => w.fault = none ∧ w.bit = none ∧ w.idx = none ∧ w.rangesOk = true
  | .stop _ => False

variable {o : OwOp} {r : Option Byte} {k : List Stmt} {w : OwAgent}

theorem Running.sound_prim (h : Running o r k w) (p : Prim) (c : Option DsCmd) : (Settled.prim p k w c).Sound o r :=
  ⟨fun _ => h, h.readback⟩

theorem andThen_sound {x : Except Stop OwAgent} {f : OwAgent → Settled} (hx : ∃ v, x = .ok v ∧ Running o r k v)
    (hf : ∀ {v}, Running o r k v → (f v).Sound o r) : (andThen x f).Sound o r := by
  obtain ⟨v, rfl, hv⟩ := hx
  exact hf hv

theorem settle_sound {c : Option DsCmd} (h : Running o r k w) : (settle r c k w).Sound o r := by
  induction k generalizing c w with
  | nil =>
    obtain ⟨v, hv⟩ := h.returnValue
    obtain ⟨hbit, hidx⟩ := h.working_none
    simp only [settle, hv]
    exact ⟨h.noFault, hbit, hidx, h.ranges⟩
  | cons i k ih =>
    cases i with
    | setBaud | txReset | delay =>
      have hk : Running o r k w := { h with covered := h.covered }
      exact hk.sound_prim ..
    | rx => exact ⟨fun hp => absurd rfl hp, fun b => { h with covered := h.covered }⟩
    | slots =>
      obtain ⟨x, n, hx, hn⟩ := h.slots_written
      by_cases hlt : n < 8
      · rw [settle_slots_lt hn hx hlt]
        exact (h.slot hn hlt).sound_prim ..
      · rw [settle_slots_ge hn hlt]
        exact ih h.afterSlots
    | presence => exact andThen_sound h.presence ih
    | load x => exact ih h.load
    | command d => exact ih (Running.load (x := dsCmdByte d) { h with covered := h.covered })
    | store => exact andThen_sound h.store ih
    | unload => exact andThen_sound h.unload ih
    | idxZero => exact ih h.idxZero
    | readBytes =>
      obtain ⟨n, hn⟩ := h.readBytes_written
      by_cases hlt : n < Config.spLen
      · rw [settle_readBytes_lt hn hlt]
        exact (h.firstSlot hn hlt).sound_prim ..
      · rw [settle_readBytes_ge hn hlt]
        exact ih (h.afterBytes hn hlt)
    | storeByte => exact andThen_sound h.storeByte ih
    | verdict => exact andThen_sound h.verdict ih

/-! ### The agent's invariant over its step -/

/-- FAULTED, with a record that is not F04 (60_exceptions.md R404, R405). -/
theorem OwAgent.ok_faulted {f : FaultRec} (h : w.ok = true) (hf : notUnwritten f = true) (tr : List OwEvent) :
    ({ w with owst := .faulted, fault := keepFirst w.fault f, trace := tr } : OwAgent).ok = true := by
  simp only [OwAgent.ok, Bool.and_eq_true] at h
  obtain ⟨⟨hfault, hranges⟩, -⟩ := h
  simp only [OwAgent.ok, OwAgent.phaseOk, Bool.and_eq_true]
  exact ⟨⟨keepFirst_notUnwritten hfault hf, hranges⟩, keepFirst_isSome ..⟩

/-- IDLE (10_state.md R45, 43_onewire.md R310). -/
theorem OwAgent.ok_idle_iff (hw : w.owst = .idle) :
    w.ok = true ↔ w.rangesOk = true ∧ w.fault = none ∧ w.op = none ∧ w.seq = none ∧ w.bit = none ∧ w.idx = none := by
  simp +contextual [OwAgent.ok, OwAgent.phaseOk, hw, and_assoc, and_left_comm]

/-- BUSY: the procedure is running (10_state.md R48). -/
theorem OwAgent.ok_busy_iff (hw : w.owst = .busy) :
    w.ok = true ↔ ∃ q, w.seq = some q ∧ ∃ o, Running o q.r q.todo w := by
  constructor
  · intro h
    simp only [OwAgent.ok, OwAgent.phaseOk, hw, Bool.and_eq_true, Option.any_eq_true, Option.isNone_iff_eq_none] at h
    obtain ⟨⟨-, hranges⟩, hfault, o, ho, q, hq, hcovered⟩ := h
    exact ⟨q, hq, o, hw, hfault, ho, hcovered, hranges⟩
  · rintro ⟨q, hq, o, h⟩
    simp [OwAgent.ok, OwAgent.phaseOk, hw, hq, h.noFault, h.op, h.covered, h.ranges]

theorem finishOw_ok {op : OwOp} {v : HostValue} {s : State} (hw : (Settled.done op v w).Sound o r) :
    (finishOw op v w s).ow.ok = true := by
  obtain ⟨hfault, hbit, hidx, hranges⟩ := hw
  exact (OwAgent.ok_idle_iff rfl).2 ⟨hranges, hfault, rfl, rfl, hbit, hidx⟩

theorem completePrim_ok {s t : State} (hw : Running o r k w) (h : completePrim k r w s = .next t) : t.ow.ok = true := by
  have hsound := settle_sound (c := none) hw
  unfold completePrim at h
  split at h
  · cases h; exact (OwAgent.ok_busy_iff (by exact hw.busy)).2 ⟨_, rfl, o, hw.aside ..⟩
  · next hd => cases h; exact finishOw_ok (hd ▸ hsound)
  · next hd => exact (hd ▸ hsound : Settled.Sound o r (.stop _)).elim

theorem transmit_ok {c : Byte} {s t : State} (hs : s.ow.ok = true) (hw : Running o r k w)
    (h : transmit c k r w s = .next t) : t.ow.ok = true := by
  unfold transmit at h
  split at h
  · exact completePrim_ok (hw.aside ..) h
  · cases h; exact OwAgent.ok_faulted hs rfl _

theorem receive_ok {s t : State} (hs : s.ow.ok = true) (hw : ∀ b, Running o (some b) k w) (h : receive k w s = .next t) :
    t.ow.ok = true := by
  unfold receive at h
  split at h
  · cases h; exact hs
  · cases h; exact OwAgent.ok_faulted hs rfl _
  · next b _ _ => exact completePrim_ok ((hw b).aside ..) h

theorem runPrim_ok {p : Prim} {c : Option DsCmd} {s t : State} (hs : s.ow.ok = true)
    (hw : (Settled.prim p k w c).Sound o r) (h : runPrim p k r w s = .next t) : t.ow.ok = true := by
  obtain ⟨hkeep, hrx⟩ := hw
  cases p with
  | setBaud b => exact completePrim_ok ((hkeep (by simp)).aside ..) h
  | txReset => exact transmit_ok hs (hkeep (by simp)) h
  | rx => exact receive_ok hs hrx h
  | delay ms => exact completePrim_ok ((hkeep (by simp)).aside ..) h
  | txSlot bit =>
    simp only [runPrim] at h
    split at h
    · exact transmit_ok hs (hkeep (by simp)) h
    · cases h; exact OwAgent.ok_faulted hs rfl _

theorem owStep_ok {s t : State} (hs : s.ow.ok = true) (h : owStep s = .next t) : t.ow.ok = true := by
  cases hb : s.ow.owst with
  | idle => rw [owStep_idle hb] at h; cases h; exact hs
  | faulted => rw [owStep_faulted hb] at h; cases h; exact hs
  | busy =>
    obtain ⟨q, hq, o, hw⟩ := (OwAgent.ok_busy_iff hb).1 hs
    have hsound := settle_sound (c := none) hw
    simp only [owStep, hb, hq] at h
    split at h
    · next hp => exact runPrim_ok hs (hp ▸ hsound) h
    · next hd => cases h; exact finishOw_ok (hd ▸ hsound)
    · next hd => exact (hd ▸ hsound : Settled.Sound o q.r (.stop _)).elim

/-- A request that is accepted starts its procedure. -/
theorem OwAgent.ok_accepted {proc : List Stmt} (h : w.ok = true) (hi : w.owst = .idle) (hp : Procedure o proc) :
    ({ w with op := some o, seq := some ⟨proc, none⟩, owst := .busy } : OwAgent).ok = true := by
  obtain ⟨hranges, hfault, -, -, hbit, hidx⟩ := (ok_idle_iff hi).1 h
  refine (ok_busy_iff rfl).2 ⟨_, rfl, o, rfl, hfault, rfl, ?_, hranges⟩
  exact covers_mono (by constructor <;> simp [known, Known.nothing, hbit, hidx]) hp.covered

/-- The agent at reset meets the invariant, with whatever trace. -/
theorem OwAgent.ok_reset (tr : List OwEvent) : ({ OwAgent.reset with trace := tr } : OwAgent).ok = true := rfl

end Sys2Proof.Machine
end

section
/-! What a step of the OW agent does to its trace and to the host's record. -/

namespace Sys2Proof.Machine

/-! ### The pure statements -/

/-- The agent where the pure statements lead, if they do not stop. -/
def Settled.agent : Settled → Option OwAgent
  | .prim _ _ w _ => some w
  | .done _ _ w => some w
  | .stop _ => none

theorem presenceStmt_trace {r : Option Byte} {w v : OwAgent} (h : presenceStmt r w = .ok v) : w.trace <+: v.trace := by
  obtain ⟨c, -, h⟩ := bind_eq_ok h
  split at h <;> cases h
  · exact List.prefix_rfl
  · exact List.prefix_append ..

theorem storeStmt_trace {r : Option Byte} {w v : OwAgent} (h : storeStmt r w = .ok v) : w.trace <+: v.trace := by
  obtain ⟨c, -, h⟩ := bind_eq_ok h
  obtain ⟨rxb, -, h⟩ := bind_eq_ok h
  obtain ⟨n, -, h⟩ := bind_eq_ok h
  cases h; exact List.prefix_rfl

theorem unloadStmt_trace {w v : OwAgent} (h : unloadStmt w = .ok v) : w.trace <+: v.trace := by
  obtain ⟨rxb, -, h⟩ := bind_eq_ok h
  cases h; exact List.prefix_rfl

theorem storeByteStmt_trace {w v : OwAgent} (h : storeByteStmt w = .ok v) : w.trace <+: v.trace := by
  obtain ⟨b, -, h⟩ := bind_eq_ok h
  obtain ⟨n, -, h⟩ := bind_eq_ok h
  split at h <;> cases h
  exact List.prefix_rfl

theorem verdictStmt_trace {w v : OwAgent} (h : verdictStmt w = .ok v) : w.trace <+: v.trace := by
  obtain ⟨sp, -, h⟩ := bind_eq_ok h
  dsimp only at h
  split at h <;> cases h
  · exact List.prefix_rfl
  · exact List.prefix_append ..

theorem andThen_trace {x : Except Stop OwAgent} {f : OwAgent → Settled} {w v : OwAgent}
    (hx : ∀ {u}, x = .ok u → w.trace <+: u.trace) (hf : ∀ {u}, (f u).agent = some v → u.trace <+: v.trace)
    (h : (andThen x f).agent = some v) : w.trace <+: v.trace := by
  cases x with
  | ok u => exact (hx rfl).trans (hf h)
  | error st => cases h

/-- The pure statements only add to the trace. -/
theorem settle_trace {r : Option Byte} {c : Option DsCmd} {k : List Stmt} {w v : OwAgent}
    (h : (settle r c k w).agent = some v) : w.trace <+: v.trace := by
  induction k generalizing c w with
  | nil =>
    simp only [settle] at h
    split at h <;> cases h
    exact List.prefix_rfl
  | cons i k ih =>
    cases i with
    | setBaud | txReset | rx | delay => cases h; exact List.prefix_rfl
    | slots =>
      simp only [settle] at h
      split at h
      · cases h
      · split at h
        · split at h <;> cases h
          exact List.prefix_rfl
        · exact ih h
    | presence => exact andThen_trace presenceStmt_trace ih h
    | load x => exact ih (w := loadByte x w) h
    | command d => exact ih (w := loadByte (dsCmdByte d) w) h
    | store => exact andThen_trace storeStmt_trace ih h
    | unload => exact andThen_trace unloadStmt_trace ih h
    | idxZero => exact ih (w := { w with idx := some 0 }) h
    | readBytes =>
      simp only [settle] at h
      split at h
      · cases h
      · split at h
        · cases h; exact List.prefix_rfl
        · exact ih h
    | storeByte => exact andThen_trace storeByteStmt_trace ih h
    | verdict => exact andThen_trace verdictStmt_trace ih h

/-! ### The step -/

/-- The OW agent's trace, from `w`'s on, and the host's record only grow. -/
def OwGrows (w : OwAgent) (s t : State) : Prop := w.trace <+: t.ow.trace ∧ s.host <+: t.host

theorem OwGrows.of_trace {w v : OwAgent} {s t : State} (hw : w.trace <+: v.trace) (h : OwGrows v s t) : OwGrows w s t :=
  ⟨hw.trans h.1, h.2⟩

theorem raiseOw_grows {f : FaultRec} {s t : State} (h : raiseOw f s = .next t) : OwGrows s.ow s t := by
  cases h; exact ⟨List.prefix_rfl, List.prefix_rfl⟩

theorem stopOw_grows {st : Stop} {s t : State} (h : stopOw st s = .next t) : OwGrows s.ow s t := by
  obtain ⟨f, -, rfl⟩ := stopOw_eq_next h
  exact ⟨List.prefix_rfl, List.prefix_rfl⟩

theorem failOw_grows {p : Primitive} {s t : State} (h : failOw p s = .next t) : OwGrows s.ow s t := by
  cases h; exact ⟨List.prefix_append .., List.prefix_rfl⟩

theorem finishOw_grows (op : OwOp) (v : HostValue) (w : OwAgent) (s : State) : OwGrows w s (finishOw op v w s) :=
  ⟨List.prefix_append .., List.prefix_append ..⟩

theorem completePrim_grows {k : List Stmt} {r : Option Byte} {w : OwAgent} {s t : State}
    (h : completePrim k r w s = .next t) : OwGrows w s t := by
  unfold completePrim at h
  split at h
  · cases h; exact ⟨List.prefix_rfl, List.prefix_rfl⟩
  · next op v w' hd =>
    cases h
    exact (finishOw_grows op v w' s).of_trace (settle_trace (by rw [hd]; rfl))
  · exact stopOw_grows (s := recorded w s) h

theorem transmit_grows {c : Byte} {k : List Stmt} {r : Option Byte} {w : OwAgent} {s t : State}
    (h : transmit c k r w s = .next t) : OwGrows w s t := by
  unfold transmit at h
  split at h
  · exact (completePrim_grows h).of_trace (List.prefix_append ..)
  · next env _ => exact failOw_grows (s := recorded w { s with env := env }) h

theorem runPrim_grows {p : Prim} {k : List Stmt} {r : Option Byte} {w : OwAgent} {s t : State} (hw : s.ow.trace <+: w.trace)
    (h : runPrim p k r w s = .next t) : OwGrows s.ow s t := by
  cases p with
  | setBaud b => exact (completePrim_grows h).of_trace (hw.trans (List.prefix_append ..))
  | delay ms => exact (completePrim_grows h).of_trace (hw.trans (List.prefix_append ..))
  | txReset => exact (transmit_grows h).of_trace hw
  | rx =>
    simp only [runPrim, receive] at h
    split at h
    · cases h; exact ⟨List.prefix_rfl, List.prefix_rfl⟩
    · next rest _ =>
      exact (failOw_grows (s := recorded w { s with env := { s.env with owRx := rest } }) h).of_trace hw
    · exact (completePrim_grows h).of_trace (hw.trans (List.prefix_append ..))
  | txSlot bit =>
    simp only [runPrim] at h
    split at h
    · exact (transmit_grows h).of_trace hw
    · exact (raiseOw_grows (s := recorded w s) h).of_trace hw

theorem owStep_grows {s t : State} (h : owStep s = .next t) : OwGrows s.ow s t := by
  unfold owStep at h
  split at h
  · cases h; exact ⟨List.prefix_rfl, List.prefix_rfl⟩
  · cases h; exact ⟨List.prefix_rfl, List.prefix_rfl⟩
  · split at h
    · exact raiseOw_grows h
    · split at h
      · next hp => exact runPrim_grows (settle_trace (by rw [hp]; rfl)) h
      · next op v w hd =>
        cases h
        exact (finishOw_grows op v w s).of_trace (settle_trace (by rw [hd]; rfl))
      · exact stopOw_grows h

end Sys2Proof.Machine
end

section
/-! A step of the machine as a chain of elementary changes (`Change`): what holds of each of them holds of the step. Settles O56,
O59, O49, O55. -/

namespace Sys2Proof.Machine

open Relation

/-! ### The elementary changes -/

/-- What a step of the machine is made of, but for the block's reset. -/
inductive Change (s : State) : State → Prop
  | env (e : Env) : Change s { s with env := e }
  | lin {l : LinAgent} (h : s.lin.Step l) : Change s { s with lin := l }
  | ow {t : State} (h : owStep s = .next t) : Change s t
  | accepted {op : OwOp} {proc : List Stmt} (hi : s.ow.owst = .idle) (hp : Procedure op proc) :
      Change s { s with ow := { s.ow with op := some op, seq := some ⟨proc, none⟩, owst := .busy } }
  | host (e : HostEvent) : Change s { s with host := s.host ++ [e] }
  | restartLin : Change s (restartLin s)
  | restartOw : Change s (restartOw s)

/-- A chain of changes. -/
abbrev Changes : State → State → Prop := ReflTransGen Change

theorem Changes.of_env {s t : State} (e : Env) (h : Changes { s with env := e } t) : Changes s t :=
  .head (.env e) h

theorem Changes.of_owStep {s t : State} (h : owStep s = .next t) : Changes s t := .single (.ow h)

/-- A step of the LIN agent that leaves the OW agent and the host port alone. -/
theorem Changes.of_lin {s t : State} (h : s.lin.Step t.lin) (hf : LinFrame s t) : Changes s t := by
  obtain ⟨how, hhost, -⟩ := hf
  have ht : t = { s with lin := t.lin, env := t.env } := by rw [← how, ← hhost]
  rw [ht]
  exact .tail (.single (.lin h)) (.env t.env)

/-! ### The instructions -/

theorem answerTyped_changes {typed : Bool} {sel : Byte} {v : HostValue} {s t : State}
    (h : answerTyped typed sel v s = .next t) : Changes s t := by
  obtain ⟨-, h'⟩ | ⟨-, h'⟩ := answerTyped_cases typed sel v s
  all_goals cases h'.symm.trans h; exact .single (.host _)

theorem refuse_changes {code : RefusalCode} {sel : Byte} {s t : State} (h : refuse code sel s = .next t) : Changes s t := by
  cases h; exact .single (.host _)

theorem acceptOw_changes {op : OwOp} {proc : List Stmt} {s t : State} (hp : Procedure op proc)
    (h : acceptOw op proc s = .next t) : Changes s t := by
  obtain ⟨hi, h'⟩ | ⟨-, h'⟩ := acceptOw_cases op proc s
  · cases h'.symm.trans h; exact .single (.accepted hi hp)
  · cases h'.symm.trans h; exact .single (.host _)

theorem beginCommand_changes {c : DsCmd} {m : String} {s t : State} (h : beginCommand c m s = .next t) : Changes s t := by
  unfold beginCommand at h
  split at h
  · split at h
    · exact .of_owStep h
    · cases h
  · cases h

theorem execOwSlot_changes {bit : Bool} {r : Byte} {s t : State} (h : execOwSlot bit r s = .next t) : Changes s t := by
  unfold execOwSlot at h
  split at h
  · split at h
    · split at h
      · next u hu =>
        refine .head (.ow hu) ?_
        split at h
        · exact Changes.of_env _ (.of_owStep h)
        · cases h; exact .refl
      · cases h
      · cases h
    · cases h
  · cases h

theorem exec_changes {i : Instr} {s t : State} (h : exec i s = .next t) : Changes s t := by
  cases i with
  | pidParity | pidEncode | csumGen | csumCheck | dsDecode => exact answerTyped_changes h
  | pidValidate | csumAdd | crc8Update | crc8Check => exact answerTyped_changes (typed := true) h
  | owReset => exact acceptOw_changes .reset h
  | owWrb x => exact acceptOw_changes (.wrb x) h
  | owRb => exact acceptOw_changes .rb h
  | owWb x => exact acceptOw_changes (.wb x) h
  | dsStart => exact acceptOw_changes .start h
  | dsRawTemp => exact acceptOw_changes .rawTemp h
  | owSlot => exact execOwSlot_changes h
  | engBreakHit b => exact .of_lin (execEngBreakHit_step h) (execEngBreakHit_frame h)
  | engBreakSkip b => exact .of_lin (execEngBreakSkip_step h) (execEngBreakSkip_frame h)
  | engSyncOk b => exact .of_lin (execEngSyncOk_step h) (execEngSyncOk_frame h)
  | engSyncBad b => exact .of_lin (execEngSyncBad_step h) (execEngSyncBad_frame h)
  | engPidOk b => exact .of_lin (execEngPidOk_step h) (execEngPidOk_frame h)
  | engPidBad b => exact .of_lin (execEngPidBad_step h) (execEngPidBad_frame h)
  | engRespond => exact .of_lin (execEngRespond_step h) (execEngRespond_frame h)
  | engCmdData b => exact .of_lin (execEngCmdData_step h) (execEngCmdData_frame h)
  | engCmdCkOk b => exact .of_lin (execEngCmdCkOk_step h) (execEngCmdCkOk_frame h)
  | engCmdCkBad b => exact .of_lin (execEngCmdCkBad_step h) (execEngCmdCkBad_frame h)
  | engDrop => exact .of_lin (execEngDrop_step h) (execEngDrop_frame h)
  | linBreak | linSync | linPid | linData | linChecksum => exact .of_lin (deliver_step h) (deliver_frame h)
  | owCharReset | owCharSlot1 | owCharSlot0 =>
    simp only [exec, execOwCharReset, execOwCharSlot1, execOwCharSlot0] at h
    split at h
    · exact .of_owStep h
    · cases h
  | dsCmdSkipRom | dsCmdConvert | dsCmdReadSp => exact beginCommand_changes h

/-! ### The turns and the step -/

/-- A selection of the LIN agent that does not go through is one of RECV_CMD's reads. -/
theorem linSelect_blocked {l : LinAgent} {f : FaultRec} (h : linSelect l = .error (.raise f)) : l.Blocked f := by
  cases hl : l.lst with
  | recvCmd =>
    simp only [linSelect, hl] at h
    split at h
    · next hst => cases h; exact .inl ⟨hl, hst⟩
    · cases h
    · cases h
  | scanBreak | scanSync | readPid | respond | drop | faulted => simp [linSelect, hl] at h

/-- What the LIN agent's turn may select in `s`: only the environment has changed before it, and a stop raises what the agent's
reads raise. -/
def LinFetch.From (s : State) : LinFetch → Prop
  | .hold => True
  | .failed t => s.lin.lst ≠ .faulted ∧ ∃ e, t = { s with env := e }
  | .stop st t => (∀ f, st = .raise f → s.lin.Blocked f) ∧ ∃ e, t = { s with env := e }
  | .instr _ t => ∃ e, t = { s with env := e }

theorem linDecoded_from (sel : LinSel) (b : Option Byte) (s : State) (e : Env) :
    (linDecoded sel b { s with env := e }).From s := by
  unfold linDecoded
  split
  · exact ⟨e, rfl⟩
  · exact ⟨fun _ hf => (by cases hf), e, rfl⟩

theorem linFetch_from (s : State) : (linFetch s).From s := by
  cases hl : s.lin.lst with
  | faulted => rw [linFetch_faulted hl]; trivial
  | respond | drop =>
    simp only [linFetch, hl]
    exact linDecoded_from _ _ s s.env
  | scanBreak | scanSync | readPid | recvCmd =>
    simp only [linFetch, hl]
    split
    · trivial
    · exact ⟨by simp [hl], _, rfl⟩
    · split
      · next hst => exact ⟨fun _ hf => linSelect_blocked (hf ▸ hst), _, rfl⟩
      · exact linDecoded_from _ _ s _

theorem linTurn_changes {s t : State} (h : linTurn s = .next t) : Changes s t := by
  have hfrom := linFetch_from s
  unfold linTurn at h
  split at h
  · cases h; exact .refl
  · next hf =>
    obtain ⟨hl, e, rfl⟩ : LinFetch.From s (.failed _) := hf ▸ hfrom
    exact .of_env e (.of_lin (failLin_step hl h) (failLin_frame h))
  · next hf =>
    obtain ⟨hst, e, rfl⟩ : LinFetch.From s (.stop ..) := hf ▸ hfrom
    exact .of_env e (.of_lin (stopLin_step hst h) (stopLin_frame h))
  · next hf =>
    obtain ⟨e, rfl⟩ : LinFetch.From s (.instr ..) := hf ▸ hfrom
    exact .of_env e (exec_changes h)

theorem owTurn_changes {s t : State} (h : owTurn s = .next t) : Changes s t := by
  unfold owTurn at h
  split at h
  · exact exec_changes h
  · exact .of_owStep h

theorem hostTurn_changes {sel : Byte} {args : List Byte} {s t : State} (h : hostTurn sel args s = .next t) : Changes s t := by
  unfold hostTurn at h
  split at h
  · exact exec_changes h
  · exact refuse_changes h
  · exact refuse_changes h

theorem linByteTurn_changes {b : Byte} {s t : State} (h : linByteTurn b s = .next t) : Changes s t := by
  unfold linByteTurn at h
  split at h
  · exact exec_changes h
  · exact .of_lin (deliver_step h) (deliver_frame h)

theorem deliverOw_changes {i : RxItem} {s t : State} (h : deliverOw i s = .next t) : Changes s t := by
  unfold deliverOw at h
  split at h
  · exact .of_env _ (.of_owStep h)
  · cases h; exact .refl

theorem runMove_changes {m : Move} {s t : State} (hm : m ≠ .resetBlock) (h : runMove m s = .next t) : Changes s t := by
  cases m with
  | lin => exact linTurn_changes h
  | ow => exact owTurn_changes h
  | host => exact hostTurn_changes h
  | linByte => exact linByteTurn_changes h
  | linFail => cases h; exact .single (.env _)
  | owByte | owFail => exact deliverOw_changes h
  | restartLin => cases h; exact .single .restartLin
  | restartOw => cases h; exact .single .restartOw
  | resetBlock => exact absurd rfl hm

/-- A step is a chain of changes, or the block's reset. -/
theorem step_cases {s t : State} (h : step s = .next t) :
    Changes s t ∨ (s.env.moves.head? = some .resetBlock ∧ ∃ e, t = { State.reset with env := e }) := by
  cases hms : s.env.moves with
  | nil =>
    simp only [step, takeMove, hms, freeTurn] at h
    left
    split at h
    · exact .of_env _ (linTurn_changes h)
    · exact .of_env _ (owTurn_changes h)
  | cons m ms =>
    simp only [step, takeMove, hms] at h
    by_cases hm : m = .resetBlock
    · subst hm
      cases h
      exact .inr ⟨rfl, _, rfl⟩
    · exact .inl (.of_env _ (runMove_changes hm h))

/-! ### The obligations -/

/-- The invariant at reset, whatever the environment. -/
theorem reset_inv (e : Env) : ({ State.reset with env := e } : State).Inv := ⟨LinAgent.ok_reset [], OwAgent.ok_reset []⟩

theorem Change.inv {s t : State} (hc : Change s t) (h : s.Inv) : t.Inv := by
  obtain ⟨hlin, how⟩ := h
  cases hc with
  | env e => exact ⟨hlin, how⟩
  | lin hl => exact ⟨hl.ok hlin, how⟩
  | ow ho => exact ⟨(owStep_frame ho).1 ▸ hlin, owStep_ok how ho⟩
  | accepted hi hp => exact ⟨hlin, OwAgent.ok_accepted how hi hp⟩
  | host e => exact ⟨hlin, how⟩
  | restartLin => exact ⟨LinAgent.ok_reset _, how⟩
  | restartOw => exact ⟨hlin, OwAgent.ok_reset _⟩

theorem Changes.inv {s t : State} (hc : Changes s t) (h : s.Inv) : t.Inv := by
  induction hc with
  | refl => exact h
  | tail _ hc ih => exact hc.inv ih

/-- Both traces and the host's record of `s` are initial parts of those of `t`. -/
def RecordsGrow (s t : State) : Prop := s.lin.trace <+: t.lin.trace ∧ s.ow.trace <+: t.ow.trace ∧ s.host <+: t.host

theorem RecordsGrow.refl (s : State) : RecordsGrow s s := ⟨List.prefix_rfl, List.prefix_rfl, List.prefix_rfl⟩

theorem RecordsGrow.trans {s t u : State} (h₁ : RecordsGrow s t) (h₂ : RecordsGrow t u) : RecordsGrow s u :=
  ⟨h₁.1.trans h₂.1, h₁.2.1.trans h₂.2.1, h₁.2.2.trans h₂.2.2⟩

theorem Change.recordsGrow {s t : State} (hc : Change s t) : RecordsGrow s t := by
  cases hc with
  | env | accepted | restartLin | restartOw => exact .refl s
  | lin hl => exact ⟨hl.trace_grows, List.prefix_rfl, List.prefix_rfl⟩
  | ow ho => exact ⟨(owStep_frame ho).1 ▸ List.prefix_rfl, owStep_grows ho⟩
  | host e => exact ⟨List.prefix_rfl, List.prefix_rfl, List.prefix_append ..⟩

theorem Changes.recordsGrow {s t : State} (hc : Changes s t) : RecordsGrow s t := by
  induction hc with
  | refl => exact .refl s
  | tail _ hc ih => exact ih.trans hc.recordsGrow

/-- Settles O56: each elementary change keeps the invariant, and the block's reset makes it. -/
theorem invariantIsKept : Obligations.InvariantIsKept := by
  unfold Obligations.InvariantIsKept
  intro s t h hstep
  obtain hc | ⟨-, e, rfl⟩ := step_cases hstep
  · exact hc.inv h
  · exact reset_inv e

/-- Settles O59: each elementary change only adds to the records. -/
theorem recordsOnlyGrow : Obligations.RecordsOnlyGrow := by
  unfold Obligations.RecordsOnlyGrow
  intro s t hstep hm
  obtain hc | ⟨hreset, -⟩ := step_cases hstep
  · exact hc.recordsGrow
  · exact absurd hreset hm

/-- Settles O49: the columns of R34 and R40. -/
theorem resetValues : Obligations.ResetValues := by
  unfold Obligations.ResetValues
  simp [LinAgent.reset, OwAgent.reset]

/-- Settles O55: the invariant at reset, with no input listed. -/
theorem invariantAtReset : Obligations.InvariantAtReset := reset_inv Env.reset

end Sys2Proof.Machine
end

section
/-! The frames of the rows: what the LIN rows and the One-Wire rows leave alone, and which steps of the OW agent keep its rate.
Settles O51, O52. -/

namespace Sys2Proof.Machine

/-! ### The inputs that are not the agent's -/

theorem LinEnv.others {e e' : Env} (h : LinEnv e e') :
    e'.moves = e.moves ∧ e'.owRx = e.owRx ∧ e'.owTx = e.owTx ∧ e'.owDraws = e.owDraws ∧ e'.turnDraws = e.turnDraws := by
  unfold LinEnv at h
  rw [h]
  exact ⟨rfl, rfl, rfl, rfl, rfl⟩

theorem OwEnv.others {e e' : Env} (h : OwEnv e e') :
    e'.moves = e.moves ∧ e'.linRx = e.linRx ∧ e'.linTx = e.linTx ∧ e'.build = e.build ∧ e'.expect = e.expect ∧
      e'.linDraws = e.linDraws ∧ e'.turnDraws = e.turnDraws := by
  unfold OwEnv at h
  rw [h]
  exact ⟨rfl, rfl, rfl, rfl, rfl, rfl, rfl⟩

/-! ### The LIN rows -/

/-- An engine transition or an arriving byte leaves the OW agent, the host port and the One-Wire inputs alone
(20_memory.md R82). -/
theorem exec_linRow_frame {i : Instr} {s t : State} (hi : i.format = .linStep ∨ i.format = .linByte)
    (h : exec i s = .next t) : LinFrame s t := by
  cases i with
  | engBreakHit => exact execEngBreakHit_frame h
  | engBreakSkip => exact execEngBreakSkip_frame h
  | engSyncOk => exact execEngSyncOk_frame h
  | engSyncBad => exact execEngSyncBad_frame h
  | engPidOk => exact execEngPidOk_frame h
  | engPidBad => exact execEngPidBad_frame h
  | engRespond => exact execEngRespond_frame h
  | engCmdData => exact execEngCmdData_frame h
  | engCmdCkOk => exact execEngCmdCkOk_frame h
  | engCmdCkBad => exact execEngCmdCkBad_frame h
  | engDrop => exact execEngDrop_frame h
  | linBreak | linSync | linPid | linData | linChecksum => exact deliver_frame h
  | _ => simp [Instr.format] at hi

/-! ### The One-Wire rows, as steps of the OW agent -/

/-- A slot that answers is a step that sends the slot's character and, where the agent is still BUSY, a step with the readback
there (43_onewire.md R302). -/
theorem execOwSlot_eq_next {bit : Bool} {r : Byte} {s t : State} (h : execOwSlot bit r s = .next t) :
    ∃ c u, owPending s.ow = some (.txSlot bit, c) ∧ owStep s = .next u ∧
      (t = u ∨ u.ow.owst = .busy ∧ owStep { u with env := { u.env with owRx := .byte r :: u.env.owRx } } = .next t) := by
  unfold execOwSlot at h
  split at h
  · next b c hp =>
    split at h
    · next hb =>
      subst hb
      split at h
      · next u hu =>
        refine ⟨c, u, hp, hu, ?_⟩
        split at h
        · next hbusy => exact .inr ⟨hbusy, h⟩
        · cases h; exact .inl rfl
      · cases h
      · cases h
    · cases h
  · cases h

/-- A character row that answers is the agent's step, and that step sends a character (30_encoding.md R105). -/
theorem exec_owChar_eq_next {i : Instr} {s t : State} (hi : i.format = .owChar) (h : exec i s = .next t) :
    owStep s = .next t ∧ ∃ p c, owPending s.ow = some (p, c) ∧ ∀ b, p ≠ .setBaud b := by
  cases i with
  | owCharReset | owCharSlot1 | owCharSlot0 =>
    simp only [exec, execOwCharReset, execOwCharSlot1, execOwCharSlot0] at h
    split at h
    · next c hp => exact ⟨h, _, c, hp, nofun⟩
    · cases h
  | _ => cases hi

/-- A command row that answers is the agent's step (30_encoding.md R108). -/
theorem beginCommand_eq_next {c : DsCmd} {m : String} {s t : State} (h : beginCommand c m s = .next t) :
    owStep s = .next t := by
  unfold beginCommand at h
  split at h
  · split at h
    · exact h
    · cases h
  · cases h

theorem execOwSlot_frame {bit : Bool} {r : Byte} {s t : State} (h : execOwSlot bit r s = .next t) : OwFrame s t := by
  obtain ⟨-, u, -, hu, rfl | ⟨-, ht⟩⟩ := execOwSlot_eq_next h
  · exact owStep_frame hu
  · obtain ⟨hlin, henv⟩ := owStep_frame hu
    obtain ⟨hlin', henv'⟩ : OwFrame u t := .of_env (e := { u.env with owRx := .byte r :: u.env.owRx }) rfl (owStep_frame ht)
    exact ⟨hlin'.trans hlin, henv.trans henv'⟩

/-- A slot, a character or a command leaves the LIN agent and its inputs alone (20_memory.md R82). -/
theorem exec_oneWireRow_frame {i : Instr} {s t : State}
    (hi : i.format = .internal ∨ i.format = .owChar ∨ i.format = .dsCmd) (h : exec i s = .next t) : OwFrame s t := by
  obtain hi | hi | hi := hi
  · cases i with
    | owSlot bit r => exact execOwSlot_frame h
    | _ => cases hi
  · exact owStep_frame (exec_owChar_eq_next hi h).1
  · cases i with
    | dsCmdSkipRom | dsCmdConvert | dsCmdReadSp => exact owStep_frame (beginCommand_eq_next h)
    | _ => cases hi

/-! ### The rate -/

/-- A pure statement, and then the way to a primitive or to the operation's end. -/
theorem andThen_agent_frame {x : Except Stop OwAgent} {f : OwAgent → Settled} {w v : OwAgent}
    (hx : ∀ {u}, x = .ok u → PureFrame w u) (hf : ∀ {u}, (f u).agent = some v → PureFrame u v)
    (h : (andThen x f).agent = some v) : PureFrame w v := by
  cases x with
  | ok u => exact (hx rfl).trans (hf h)
  | error st => cases h

/-- Wherever the pure statements lead, they leave the agent's state, operation, place, rate, fault and line events alone: to a
primitive (`settle_frame`) or to the operation's end. -/
theorem settle_agent_frame {r : Option Byte} {c : Option DsCmd} {todo : List Stmt} {w v : OwAgent}
    (h : (settle r c todo w).agent = some v) : PureFrame w v := by
  induction todo generalizing c w with
  | nil =>
    simp only [settle] at h
    split at h <;> cases h
    exact .refl _
  | cons i todo ih =>
    cases i with
    | setBaud | txReset | rx | delay => cases h; exact .refl _
    | slots =>
      simp only [settle] at h
      split at h
      · cases h
      · split at h
        · split at h <;> cases h
          exact .refl _
        · exact ih h
    | presence => exact andThen_agent_frame presenceStmt_frame ih h
    | load x => exact ih (w := loadByte x w) h
    | command d => exact ih (w := loadByte (dsCmdByte d) w) h
    | store => exact andThen_agent_frame storeStmt_frame ih h
    | unload => exact andThen_agent_frame unloadStmt_frame ih h
    | idxZero => exact ih (w := { w with idx := some 0 }) h
    | readBytes =>
      simp only [settle] at h
      split at h
      · cases h
      · split at h
        · cases h; exact .refl _
        · exact ih h
    | storeByte => exact andThen_agent_frame storeByteStmt_frame ih h
    | verdict => exact andThen_agent_frame verdictStmt_frame ih h

/-- What follows a primitive keeps the rate. -/
theorem completePrim_baud {k : List Stmt} {r : Option Byte} {w : OwAgent} {s t : State} (hw : w.baud = s.ow.baud)
    (h : completePrim k r w s = .next t) : t.ow.baud = s.ow.baud := by
  unfold completePrim at h
  split at h
  · cases h; exact hw
  · next op v w' hd =>
    cases h
    obtain ⟨-, -, -, hbaud, -⟩ : PureFrame w w' := settle_agent_frame (by rw [hd]; rfl)
    exact hbaud.trans hw
  · obtain ⟨f, -, rfl⟩ := stopOw_eq_next h
    rfl

theorem transmit_baud {c : Byte} {k : List Stmt} {r : Option Byte} {w : OwAgent} {s t : State} (hw : w.baud = s.ow.baud)
    (h : transmit c k r w s = .next t) : t.ow.baud = s.ow.baud := by
  unfold transmit at h
  split at h
  · next env _ => exact completePrim_baud (w := { w with trace := w.trace ++ [.tx c] }) (s := { s with env := env }) hw h
  · cases h; rfl

theorem receive_baud {k : List Stmt} {w : OwAgent} {s t : State} (hw : w.baud = s.ow.baud)
    (h : receive k w s = .next t) : t.ow.baud = s.ow.baud := by
  unfold receive at h
  split at h
  · cases h; rfl
  · cases h; rfl
  · next b rest _ =>
    exact completePrim_baud (w := { w with trace := w.trace ++ [.rx b] })
      (s := { s with env := { s.env with owRx := rest } }) hw h

/-- Every primitive but `OwSetBaud` keeps the rate (43_onewire.md R301). -/
theorem runPrim_baud {p : Prim} {k : List Stmt} {r : Option Byte} {w : OwAgent} {s t : State} (hp : ∀ b, p ≠ .setBaud b)
    (hw : w.baud = s.ow.baud) (h : runPrim p k r w s = .next t) : t.ow.baud = s.ow.baud := by
  cases p with
  | setBaud b => exact absurd rfl (hp b)
  | txReset => exact transmit_baud hw h
  | rx => exact receive_baud hw h
  | delay ms => exact completePrim_baud (w := { w with trace := w.trace ++ [.delay ms] }) hw h
  | txSlot bit =>
    simp only [runPrim] at h
    split at h
    · exact transmit_baud hw h
    · cases h; rfl

/-- A step whose primitive is not `OwSetBaud` keeps the rate. -/
theorem owStep_baud {s t : State} {p : Prim} {c : Option DsCmd} (hs : owPending s.ow = some (p, c))
    (hp : ∀ b, p ≠ .setBaud b) (h : owStep s = .next t) : t.ow.baud = s.ow.baud := by
  obtain ⟨hbusy, q, k, w, hseq, hsettle⟩ := owPending_eq_some hs
  obtain ⟨-, -, -, hbaud, -⟩ := settle_frame hsettle
  rw [owStep_prim hbusy hseq hsettle] at h
  exact runPrim_baud hp hbaud h

/-- After the character of a slot, an agent that is still BUSY stands before the readback (43_onewire.md R302). -/
theorem owPending_after_txSlot {s u : State} {bit : Bool} {c : Option DsCmd} (hs : owPending s.ow = some (.txSlot bit, c))
    (h : owStep s = .next u) (hbusy : u.ow.owst = .busy) : owPending u.ow = some (.rx, none) := by
  obtain ⟨hb, q, k', w, hseq, hsettle⟩ := owPending_eq_some hs
  obtain ⟨k, rfl⟩ := settle_txSlot hsettle
  simp only [owStep_prim hb hseq hsettle, runPrim, transmit] at h
  split at h
  · split at h
    · cases h
      have hw : w.owst = .busy := hbusy
      simp [owPending, hw, settle]
    · cases h; cases hbusy
  · cases h; cases hbusy

theorem execOwSlot_baud {bit : Bool} {r : Byte} {s t : State} (h : execOwSlot bit r s = .next t) :
    t.ow.baud = s.ow.baud := by
  obtain ⟨c, u, hp, hu, ht⟩ := execOwSlot_eq_next h
  have hbaud : u.ow.baud = s.ow.baud := owStep_baud hp nofun hu
  obtain rfl | ⟨hbusy, ht⟩ := ht
  · exact hbaud
  · have hrx : owPending u.ow = some (.rx, none) := owPending_after_txSlot hp hu hbusy
    exact (owStep_baud (s := { u with env := { u.env with owRx := .byte r :: u.env.owRx } }) hrx nofun ht).trans hbaud

/-- A slot or a character keeps the rate (43_onewire.md R303). -/
theorem exec_oneWireRow_baud {i : Instr} {s t : State} (hi : i.format = .internal ∨ i.format = .owChar)
    (h : exec i s = .next t) : t.ow.baud = s.ow.baud := by
  obtain hi | hi := hi
  · cases i with
    | owSlot bit r => exact execOwSlot_baud h
    | _ => cases hi
  · obtain ⟨hstep, p, c, hp, hne⟩ := exec_owChar_eq_next hi h
    exact owStep_baud hp hne hstep

/-! ### The obligations -/

/-- Settles O51: each field off the LIN side, read off the rows' frame. -/
theorem linRowsFrame : Obligations.LinRowsFrame := by
  unfold Obligations.LinRowsFrame
  intro i s t hi h
  obtain ⟨how, hhost, henv⟩ := exec_linRow_frame hi h
  exact ⟨how, hhost, henv.others⟩

/-- Settles O52: each field off the One-Wire side, read off the rows' frame; the steps of a slot or a character make no
`OwSetBaud`. -/
theorem oneWireRowsFrame : Obligations.OneWireRowsFrame := by
  unfold Obligations.OneWireRowsFrame
  intro i s t hi h
  obtain ⟨hlin, henv⟩ := exec_oneWireRow_frame hi h
  obtain ⟨hmoves, hlinRx, hlinTx, hbuild, hexpect, hlinDraws, hturnDraws⟩ := henv.others
  refine ⟨hlin, hmoves, hlinRx, hlinTx, hbuild, hexpect, hlinDraws, hturnDraws, fun hcmd => ?_⟩
  exact exec_oneWireRow_baud (by simpa [hcmd] using hi) h

end Sys2Proof.Machine
end

section
/-! The two agents' turns do not read each other's elements. A state is joined from the LIN side of one state and everything else of
another (`State.join`); a turn of either agent acts on its own part of a joined state alone. Settles O54. -/

namespace Sys2Proof.Machine

/-! ### Joined states -/

/-- The LIN inputs of `l`, and all other inputs of `o`. -/
def Env.join (l o : Env) : Env :=
  { o with linRx := l.linRx, linTx := l.linTx, build := l.build, expect := l.expect, linDraws := l.linDraws }

/-- The LIN agent and its inputs as in `l`, and all else as in `o`. -/
def State.join (l o : State) : State := { o with lin := l.lin, env := l.env.join o.env }

@[simp] theorem State.join_lin (l o : State) : (l.join o).lin = l.lin := rfl

@[simp] theorem State.join_ow (l o : State) : (l.join o).ow = o.ow := rfl

@[simp] theorem State.join_env (l o : State) : (l.join o).env = l.env.join o.env := rfl

@[simp] theorem State.join_self (s : State) : s.join s = s := rfl

@[simp] theorem Env.join_linRx (l o : Env) : (l.join o).linRx = l.linRx := rfl

@[simp] theorem Env.join_owRx (l o : Env) : (l.join o).owRx = o.owRx := rfl

/-! ### The draws -/

theorem drawBuild_join (fid : Fid) (l o : Env) :
    drawBuild fid (l.join o) = ((drawBuild fid l).1, (drawBuild fid l).2.join o) := by
  simp only [drawBuild, Env.join]
  cases l.build <;> rfl

theorem drawExpect_join (fid : Fid) (l o : Env) :
    drawExpect fid (l.join o) = ((drawExpect fid l).1, (drawExpect fid l).2.join o) := by
  simp only [drawExpect, Env.join]
  cases l.expect <;> rfl

theorem drawLinTx_join (l o : Env) : drawLinTx (l.join o) = ((drawLinTx l).1, (drawLinTx l).2.join o) := by
  simp only [drawLinTx, Env.join]
  cases l.linTx <;> rfl

theorem drawOwTx_join (l o : Env) : drawOwTx (l.join o) = ((drawOwTx o).1, l.join (drawOwTx o).2) := by
  simp only [drawOwTx, Env.join]
  cases o.owTx <;> rfl

/-! ### The LIN agent's side -/

/-- What `f` answers depends on the LIN side alone, and `f` leaves the other side as it is. -/
def OnLinSide (f : State → Result) : Prop := ∀ {s t : State} (o : State), f s = .next t → f (s.join o) = .next (t.join o)

/-- On the other side, the answer is the state before. -/
theorem OnLinSide.eq_join {f : State → Result} {s t : State} (hf : OnLinSide f) (h : f s = .next t) : t = t.join s := by
  have hself : f (s.join s) = .next (t.join s) := hf s h
  rw [State.join_self, h] at hself
  exact Host.Outcome.next.inj hself

theorem stopLin_onLinSide (st : Stop) : OnLinSide (stopLin st) := by
  intro s t o h
  obtain ⟨f, rfl, rfl⟩ := stopLin_eq_next h
  rfl

theorem failLin_onLinSide (p : Primitive) : OnLinSide (failLin p) := by
  intro s t o h
  cases h; rfl

theorem dispatchPid_onLinSide (b : Byte) (fid : Fid) : OnLinSide (dispatchPid b fid) := by
  intro s t o h
  unfold dispatchPid at h
  split at h
  · next data e hd =>
    simp only [dispatchPid, State.join_env, drawBuild_join, hd]
    split at h
    · next hn => cases h; rw [if_pos hn]; rfl
    · next hn => cases h; rw [if_neg hn]; rfl
  · next e hd =>
    simp only [dispatchPid, State.join_env, drawBuild_join, drawExpect_join, hd]
    split at h
    · next n e' hk =>
      simp only [hk]
      split at h
      · next hn => cases h; rw [if_pos hn]; rfl
      · next hn => cases h; rw [if_neg hn]; rfl
    · next e' hk => cases h; simp only [hk]; rfl

theorem execEngPidOk_onLinSide (b : Byte) : OnLinSide (execEngPidOk b) := by
  intro s t o h
  unfold execEngPidOk at h
  split at h
  · next hl =>
    split at h
    · next fid hb => simpa [execEngPidOk, hl, hb] using dispatchPid_onLinSide b fid o h
    · cases h
  · cases h

theorem execEngRespond_onLinSide : OnLinSide execEngRespond := by
  intro s t o h
  unfold execEngRespond at h
  split at h
  · next hl =>
    split at h
    · next st hst => simpa [execEngRespond, hl, hst] using stopLin_onLinSide st o h
    · next frame hf =>
      simp only [execEngRespond, State.join_lin, State.join_env, hl, hf, drawLinTx_join, if_true]
      split at h
      · next e hd => simp only [hd]; exact failLin_onLinSide .linTx (s := { s with env := e }) o h
      · next e hd => simp only [hd]; cases h; rfl
  · cases h

theorem execEngCmdData_onLinSide (b : Byte) : OnLinSide (execEngCmdData b) := by
  intro s t o h
  unfold execEngCmdData at h
  split at h
  · next hl =>
    split at h
    · next st hst => simpa [execEngCmdData, hl, hst] using stopLin_onLinSide st o h
    · next hp =>
      split at h <;> cases h
      next hlt => simp only [execEngCmdData, State.join_lin, hl, hp, hlt, if_true]; rfl
    · cases h
  · cases h

theorem execEngCmdCkOk_onLinSide (b : Byte) : OnLinSide (execEngCmdCkOk b) := by
  intro s t o h
  unfold execEngCmdCkOk at h
  split at h
  · next hl =>
    split at h
    · next st hst => simpa [execEngCmdCkOk, hl, hst] using stopLin_onLinSide st o h
    · cases h
    · next hp =>
      split at h <;> cases h
      next hck => simp only [execEngCmdCkOk, State.join_lin, hl, hp, hck, if_true]; rfl
  · cases h

theorem execEngCmdCkBad_onLinSide (b : Byte) : OnLinSide (execEngCmdCkBad b) := by
  intro s t o h
  unfold execEngCmdCkBad at h
  split at h
  · next hl =>
    split at h
    · next st hst => simpa [execEngCmdCkBad, hl, hst] using stopLin_onLinSide st o h
    · cases h
    · next hp =>
      split at h <;> cases h
      next hck => simp only [execEngCmdCkBad, State.join_lin, hl, hp, hck, if_true]; rfl
  · cases h

theorem execEngDrop_onLinSide : OnLinSide execEngDrop := by
  intro s t o h
  unfold execEngDrop at h
  split at h
  · next hl =>
    split at h
    · next st hst => simpa [execEngDrop, hl, hst] using stopLin_onLinSide st o h
    · next pid hp => cases h; simp only [execEngDrop, State.join_lin, hl, hp, if_true]; rfl
  · cases h

/-- Every engine transition. -/
theorem exec_linStep_onLinSide {i : Instr} (hi : i.format = .linStep) : OnLinSide (exec i) := by
  cases i with
  | engBreakHit | engBreakSkip | engSyncOk | engSyncBad | engPidBad =>
    intro s t o h
    obtain ⟨hc, rfl⟩ := next_of_selected h
    exact if_pos hc
  | engPidOk b => exact execEngPidOk_onLinSide b
  | engRespond => exact execEngRespond_onLinSide
  | engCmdData b => exact execEngCmdData_onLinSide b
  | engCmdCkOk b => exact execEngCmdCkOk_onLinSide b
  | engCmdCkBad b => exact execEngCmdCkBad_onLinSide b
  | engDrop => exact execEngDrop_onLinSide
  | _ => cases hi

/-! ### The LIN agent's turn -/

/-- What the LIN agent's turn selects, with the state it selects it in joined to `o`. -/
def LinFetch.join (o : State) : LinFetch → LinFetch
  | .hold => .hold
  | .failed s => .failed (s.join o)
  | .stop st s => .stop st (s.join o)
  | .instr i s => .instr i (s.join o)

theorem linDecoded_join (sel : LinSel) (b : Option Byte) (s o : State) :
    linDecoded sel b (s.join o) = (linDecoded sel b s).join o := by
  unfold linDecoded
  cases decode (.linStep sel b) <;> rfl

/-- The LIN agent's turn selects by the LIN side alone (30_encoding.md R103). -/
theorem linFetch_join (s o : State) : linFetch (s.join o) = (linFetch s).join o := by
  cases hl : s.lin.lst with
  | faulted => simp only [linFetch, State.join_lin, hl]; rfl
  | respond | drop =>
    simp only [linFetch, State.join_lin, hl]
    exact linDecoded_join ..
  | scanBreak | scanSync | readPid | recvCmd =>
    simp only [linFetch, State.join_lin, State.join_env, Env.join_linRx, hl]
    obtain _ | ⟨b | _, rest⟩ := s.env.linRx
    · rfl
    · dsimp only
      cases linSelect s.lin with
      | error st => rfl
      | ok sel => exact linDecoded_join sel (some b) { s with env := { s.env with linRx := rest } } o
    · rfl

/-- A selection and a byte are decoded to an engine transition. -/
theorem decodeLinStep_format {sel : LinSel} {b : Option Byte} {i : Instr} (h : decodeLinStep sel b = .ok i) :
    i.format = .linStep := by
  unfold decodeLinStep at h
  split at h
  · split at h <;> cases h <;> rfl
  · split at h <;> cases h <;> rfl
  · split at h <;> cases h <;> rfl
  · cases h; rfl
  · split at h <;> cases h <;> rfl
  · cases h; rfl
  · cases h; rfl
  all_goals cases h

/-- A transition that the LIN agent's turn selects is a LIN_STEP row. -/
theorem linDecoded_instr {sel : LinSel} {b : Option Byte} {s t : State} {i : Instr}
    (h : linDecoded sel b s = .instr i t) : i.format = .linStep := by
  unfold linDecoded at h
  split at h
  · next hd => cases h; exact decodeLinStep_format hd
  · cases h

theorem linFetch_instr {s t : State} {i : Instr} (h : linFetch s = .instr i t) : i.format = .linStep := by
  unfold linFetch at h
  split at h
  · cases h
  · exact linDecoded_instr h
  · exact linDecoded_instr h
  all_goals
    split at h
    · cases h
    · cases h
    · split at h
      · cases h
      · exact linDecoded_instr h

theorem linTurn_onLinSide : OnLinSide linTurn := by
  intro s t o h
  have hjoin := linFetch_join s o
  unfold linTurn at h ⊢
  rw [hjoin]
  split at h
  · next hf => rw [hf]; cases h; rfl
  · next hf => rw [hf]; exact failLin_onLinSide .linRx o h
  · next hf => rw [hf]; exact stopLin_onLinSide _ o h
  · next i u hf => rw [hf]; exact exec_linStep_onLinSide (linFetch_instr hf) o h

/-! ### The OW agent's side -/

/-- What `f` answers depends on all but the LIN side, and `f` leaves the LIN side as it is. -/
def OffLinSide (f : State → Result) : Prop := ∀ {s t : State} (l : State), f s = .next t → f (l.join s) = .next (l.join t)

/-- On the LIN side, the answer is the state before. -/
theorem OffLinSide.eq_join {f : State → Result} {s t : State} (hf : OffLinSide f) (h : f s = .next t) : t = s.join t := by
  have hself : f (s.join s) = .next (s.join t) := hf s h
  rw [State.join_self, h] at hself
  exact Host.Outcome.next.inj hself

theorem stopOw_offLinSide (st : Stop) : OffLinSide (stopOw st) := by
  intro s t l h
  obtain ⟨f, rfl, rfl⟩ := stopOw_eq_next h
  rfl

theorem completePrim_offLinSide (k : List Stmt) (r : Option Byte) (w : OwAgent) : OffLinSide (completePrim k r w) := by
  intro s t l h
  unfold completePrim at h ⊢
  split at h
  · cases h; rfl
  · cases h; rfl
  · exact stopOw_offLinSide _ l h

theorem transmit_offLinSide (c : Byte) (k : List Stmt) (r : Option Byte) (w : OwAgent) :
    OffLinSide (transmit c k r w) := by
  intro s t l h
  simp only [transmit, State.join_env, drawOwTx_join] at h ⊢
  split at h
  · next e hd => rw [hd]; exact completePrim_offLinSide k r _ l h
  · next e hd => rw [hd]; cases h; rfl

theorem receive_offLinSide (k : List Stmt) (w : OwAgent) : OffLinSide (receive k w) := by
  intro s t l h
  simp only [receive, State.join_env, Env.join_owRx] at h ⊢
  split at h
  · cases h; rfl
  · cases h; rfl
  · exact completePrim_offLinSide k _ _ l h

theorem runPrim_offLinSide (p : Prim) (k : List Stmt) (r : Option Byte) (w : OwAgent) :
    OffLinSide (runPrim p k r w) := by
  intro s t l h
  cases p with
  | setBaud b => exact completePrim_offLinSide k r _ l h
  | txReset => exact transmit_offLinSide _ k r w l h
  | rx => exact receive_offLinSide k w l h
  | delay ms => exact completePrim_offLinSide k r _ l h
  | txSlot bit =>
    simp only [runPrim] at h ⊢
    split at h
    · next hb => rw [if_pos hb]; exact transmit_offLinSide _ k r w l h
    · next hb => rw [if_neg hb]; cases h; rfl

theorem owStep_offLinSide : OffLinSide owStep := by
  intro s t l h
  simp only [owStep, State.join_ow] at h ⊢
  split at h
  · cases h; rfl
  · cases h; rfl
  · split at h
    · cases h; rfl
    · next q _ =>
      split at h
      · exact runPrim_offLinSide _ _ q.r _ l h
      · cases h; rfl
      · exact stopOw_offLinSide _ l h

/-- The OW agent's turn is its step: the row that its place in the procedure selects is the step (10_state.md R46). -/
theorem owTurn_eq_owStep (s : State) : owTurn s = owStep s := by
  cases hp : owPending s.ow with
  | none => simp [owTurn, owFetch, hp]
  | some pc =>
    obtain ⟨p, _ | d⟩ := pc
    · cases p with
      | txSlot bit => cases bit <;> simp [owTurn, owFetch, hp, exec, execOwCharSlot1, execOwCharSlot0]
      | txReset => simp [owTurn, owFetch, hp, exec, execOwCharReset]
      | setBaud | rx | delay => simp [owTurn, owFetch, hp]
    · cases d <;>
        simp [owTurn, owFetch, hp, dsCmdInstr, exec, execDsCmdSkipRom, execDsCmdConvert, execDsCmdReadSp, beginCommand]

/-! ### The obligation -/

/-- Settles O54: from `s`, the LIN agent makes the LIN side of `t` and the OW agent all else of `u`, so both orders end in these two
joined. -/
theorem agentTurnsCommute : Obligations.AgentTurnsCommute := by
  unfold Obligations.AgentTurnsCommute
  intro s t u ht hu
  rw [owTurn_eq_owStep] at hu
  have htjoin : t = t.join s := OnLinSide.eq_join linTurn_onLinSide ht
  have hujoin : u = s.join u := OffLinSide.eq_join owStep_offLinSide hu
  refine ⟨t.join u, ?_, ?_⟩
  · calc owTurn t
        _ = owStep (t.join s) := by rw [← htjoin, owTurn_eq_owStep]
        _ = .next (t.join u) := owStep_offLinSide t hu
  · calc linTurn u
        _ = linTurn (s.join u) := by rw [← hujoin]
        _ = .next (t.join u) := linTurn_onLinSide u ht

end Sys2Proof.Machine
end

section
/-! The decoder and the encoder: what each interface's decoder accepts, and that an encoding is decoded back. Settles O1 to O4. -/

namespace Sys2Proof

open Sys2Proof.Machine

/-! ### PID bytes (30_encoding.md R102) -/

namespace Machine

@[simp] theorem pidBits_pidByte (p : BitVec 2) (id : Fid) : pidBits (pidByte p id) = p :=
  BitVec.extractLsb'_append_eq_left

@[simp] theorem pidId_pidByte (p : BitVec 2) (id : Fid) : pidId (pidByte p id) = id :=
  BitVec.extractLsb'_append_eq_right

/-- A byte whose parity field is that of its id is a PID (41_lin_pid_checksum.md R202). -/
theorem pidValidate_isSome_iff {b : Byte} : (pidValidate b).isSome = true ↔ pidBits b = pidParity (pidId b) := by
  simp [pidValidate]

@[simp] theorem pidValidate_pidEncode (id : Fid) : pidValidate (pidEncode id) = some id := by
  simp [pidValidate, pidEncode]

end Machine

/-! ### What each decoder accepts -/

/-- The law of the instructions' formats, for all of them. -/
theorem encode_format (i : Instr) : (encode i).format = i.format := by cases i <;> rfl

theorem typedRequest_of_wf {sel : Byte} {i : Instr} (h : i.wf = true) : typedRequest sel i = .ok i := if_pos h

/-- A request that is encoded as it came, and is accepted (30_encoding.md R112). -/
theorem typedRequest_eq_ok {sel : Byte} {args : List Byte} {i j : Instr} (he : encode i = .host sel args)
    (h : typedRequest sel i = .ok j) : j.wf = true ∧ encode j = .host sel args := by
  unfold typedRequest at h
  split at h <;> cases h
  exact ⟨‹_›, he⟩

/-- A host request that is accepted is well typed, and it is the encoding of what it is decoded to (30_encoding.md R111, R112). -/
theorem decodeHost_eq_ok {sel : Byte} {args : List Byte} {i : Instr} (h : decodeHost sel args = .ok i) :
    i.wf = true ∧ encode i = .host sel args := by
  have hsel : sel = BitVec.ofNat 8 sel.toNat := by simp
  unfold decodeHost at h
  split at h
  case h_16 => cases h
  all_goals
    rename_i hn
    rw [hn] at hsel
    subst hsel
    dsimp only at h
  case h_8 | h_9 => exact typedRequest_eq_ok rfl h
  all_goals
    split at h
    · exact typedRequest_eq_ok rfl h
    · cases h

/-- A slot that is decoded has one of the two slot characters (43_onewire.md R302). -/
theorem decodeSlot_eq_ok {c r : Byte} {i : Instr} (h : decodeSlot c r = .ok i) : i.wf = true ∧ i.format = .internal := by
  unfold decodeSlot at h
  split at h
  · cases h; exact ⟨rfl, rfl⟩
  · split at h <;> cases h
    exact ⟨rfl, rfl⟩

/-- A transition that is decoded has a byte that selects it (30_encoding.md R103). -/
theorem decodeLinStep_wf {sel : LinSel} {b : Option Byte} {i : Instr} (h : decodeLinStep sel b = .ok i) : i.wf = true := by
  unfold decodeLinStep at h
  split at h
  case h_1 | h_2 | h_3 => split at h <;> cases h <;> simp_all [Instr.wf]
  case h_5 => split at h <;> cases h <;> rfl
  all_goals cases h <;> rfl

/-- A byte that is decoded is a field of a frame, and a PID byte has the parity of its id (30_encoding.md R100 to R102). -/
theorem decodeLinByte_eq_ok {f : LinField} {b : Byte} {i : Instr} (h : decodeLinByte f b = .ok i) :
    i.wf = true ∧ i.format = .linByte := by
  cases f with
  | pid =>
    simp only [decodeLinByte] at h
    split at h <;> cases h
    next hp => exact ⟨beq_iff_eq.2 (pidValidate_isSome_iff.1 hp), rfl⟩
  | data | checksum => cases h; exact ⟨rfl, rfl⟩
  | _ => -- the break and the sync, each of one fixed byte
    simp only [decodeLinByte] at h
    split at h <;> cases h
    exact ⟨rfl, rfl⟩

/-- A symbol that is decoded is a One-Wire character (30_encoding.md R105). -/
theorem decodeOwChar_eq_ok {baud : Baud} {c : Byte} {i : Instr} (h : decodeOwChar baud c = .ok i) :
    i.wf = true ∧ i.format = .owChar := by
  cases baud with
  | b9600 =>
    simp only [decodeOwChar] at h
    split at h <;> cases h
    exact ⟨rfl, rfl⟩
  | b115200 =>
    simp only [decodeOwChar] at h
    split at h
    · cases h; exact ⟨rfl, rfl⟩
    · split at h <;> cases h
      exact ⟨rfl, rfl⟩

/-- A byte that is decoded is a DS18B20 command (30_encoding.md R108). -/
theorem decodeDsCmd_eq_ok {b : Byte} {i : Instr} (h : decodeDsCmd b = .ok i) : i.wf = true ∧ i.format = .dsCmd := by
  unfold decodeDsCmd at h
  split at h
  · cases h; exact ⟨rfl, rfl⟩
  · split at h
    · cases h; exact ⟨rfl, rfl⟩
    · split at h <;> cases h
      exact ⟨rfl, rfl⟩

/-! ### The obligations -/

/-- Settles O1: a host request passes its type check; on the other interfaces, the test that selects the row holds of the encoding. -/
theorem decodeEncodeRoundTrip : Obligations.DecodeEncodeRoundTrip := by
  unfold Obligations.DecodeEncodeRoundTrip
  intro i h
  cases i with
  | pidParity | pidEncode | csumGen | csumCheck | dsDecode => exact typedRequest_of_wf h
  | owSlot bit r => cases bit <;> rfl
  | engBreakHit b | engSyncOk b => exact if_pos (beq_iff_eq.1 h)
  | engBreakSkip b | engSyncBad b => exact if_neg (bne_iff_ne.1 h)
  | engPidOk b => exact if_pos h
  | engPidBad b => exact if_neg (by simpa [Instr.wf] using h)
  | engCmdCkOk b => exact if_pos rfl
  | engCmdCkBad b => exact if_neg (by simp)
  | linPid p id =>
    obtain rfl : p = pidParity id := beq_iff_eq.1 h
    simp [decode, encode, decodeLinByte, pidValidate_isSome_iff]
  | pidValidate | csumAdd | crc8Update | crc8Check | owReset | owWrb | owRb | owWb | dsStart | dsRawTemp
  | engRespond | engCmdData | engDrop | linBreak | linSync | linData | linChecksum | owCharReset | owCharSlot1 | owCharSlot0
  | dsCmdSkipRom | dsCmdConvert | dsCmdReadSp => rfl

/-- Settles O2, an interface at a time. -/
theorem decodedHasItsTypes : Obligations.DecodedHasItsTypes := by
  unfold Obligations.DecodedHasItsTypes
  intro c i h
  cases c with
  | host sel args =>
    obtain ⟨hwf, he⟩ := decodeHost_eq_ok h
    exact ⟨hwf, by rw [← encode_format, he]⟩
  | slot c r => exact decodeSlot_eq_ok h
  | linStep sel b => exact ⟨decodeLinStep_wf h, decodeLinStep_format h⟩
  | linByte f b => exact decodeLinByte_eq_ok h
  | owChar baud c => exact decodeOwChar_eq_ok h
  | dsCmd b => exact decodeDsCmd_eq_ok h

/-- Settles O3: each selector's arguments are all of them operands. -/
theorem hostRequestHasOneMeaning : Obligations.HostRequestHasOneMeaning := by
  unfold Obligations.HostRequestHasOneMeaning
  exact fun sel args i h => (decodeHost_eq_ok h).2

/-- Settles O4: each code is the encoding of a well-formed instruction, and so decoded to it. -/
theorem specWordsDecode : Obligations.SpecWordsDecode := by
  unfold Obligations.SpecWordsDecode
  have hword : ∀ i : Instr, i.wf = true → decode (encode i) = .ok i := decodeEncodeRoundTrip
  exact ⟨hword (.pidParity 0x10) rfl, hword (.csumCheck 0x50 [0x0A, 0x14, 0x1E] 0x73) rfl, hword (.owWb 0x33) rfl,
    hword .dsRawTemp rfl, hword (.owSlot true 0xFE) rfl, hword (.engPidOk 0x50) rfl, hword (.linPid 0b11 0x01) rfl,
    hword .owCharReset rfl, hword .dsCmdReadSp rfl⟩

end Sys2Proof
end

section
/-! The host requests: answered, refused or accepted. Settles O6, O7, O8, O53. -/

namespace Sys2Proof.Machine

/-! ### A request's outcomes -/

/-- A functional unit refuses an argument outside its type (30_encoding.md R112). -/
theorem answerTyped_of_ill_typed {typed : Bool} {sel : Byte} {v : HostValue} (s : State) (h : typed = false) :
    answerTyped typed sel v s = .next { s with host := s.host ++ [.refused .badOperand sel] } := by
  subst h; rfl

/-- An operation is accepted in IDLE (30_encoding.md R110). -/
theorem acceptOw_idle {s : State} (op : OwOp) (proc : List Stmt) (h : s.ow.owst = .idle) : acceptOw op proc s =
    .next { s with ow := { s.ow with op := some op, seq := some ⟨proc, none⟩, owst := .busy } } := if_pos h

/-- An operation is refused in BUSY and FAULTED (60_exceptions.md R406). -/
theorem acceptOw_not_idle {s : State} (op : OwOp) (proc : List Stmt) (h : s.ow.owst ≠ .idle) : acceptOw op proc s =
    .next { s with host := s.host ++ [.refused .busy (owOpSelector op)] } := if_neg h

/-- What a request that answers `t` may change: one entry of the host's record, or `OWST`, `OP` and `SEQ` of an IDLE agent. -/
def HostFrame (s t : State) : Prop :=
  t.lin = s.lin ∧ t.env = s.env ∧ t.ow = { s.ow with owst := t.ow.owst, op := t.ow.op, seq := t.ow.seq } ∧
    ((t.ow = s.ow ∧ ∃ e, t.host = s.host ++ [e]) ∨ (s.ow.owst = .idle ∧ t.ow.owst = .busy ∧ t.host = s.host))

theorem HostFrame.of_entry (s : State) (e : HostEvent) : HostFrame s { s with host := s.host ++ [e] } :=
  ⟨rfl, rfl, rfl, .inl ⟨rfl, e, rfl⟩⟩

theorem answerTyped_answers (typed : Bool) (sel : Byte) (v : HostValue) (s : State) :
    ∃ t, answerTyped typed sel v s = .next t ∧ HostFrame s t := by
  obtain ⟨-, h⟩ | ⟨-, h⟩ := answerTyped_cases typed sel v s
  · exact ⟨_, h, .of_entry ..⟩
  · exact ⟨_, h, .of_entry ..⟩

theorem acceptOw_answers (op : OwOp) (proc : List Stmt) (s : State) :
    ∃ t, acceptOw op proc s = .next t ∧ HostFrame s t := by
  obtain ⟨hi, h⟩ | ⟨-, h⟩ := acceptOw_cases op proc s
  · exact ⟨_, h, rfl, rfl, rfl, .inr ⟨hi, rfl, rfl⟩⟩
  · exact ⟨_, h, .of_entry ..⟩

/-! ### The obligations -/

/-- Settles O53: each row is a functional unit's answer or an operation's request. -/
theorem hostRowsFrame : Obligations.HostRowsFrame := by
  unfold Obligations.HostRowsFrame
  intro i s hi
  cases i with
  | pidParity | pidEncode | csumGen | csumCheck | dsDecode => exact answerTyped_answers ..
  | pidValidate | csumAdd | crc8Update | crc8Check => exact answerTyped_answers true ..
  | owReset | owWrb | owRb | owWb | dsStart | dsRawTemp => exact acceptOw_answers ..
  | _ => cases hi

/-- Settles O6: the arguments are ill-typed. -/
theorem badOperandsRefused : Obligations.BadOperandsRefused := by
  unfold Obligations.BadOperandsRefused
  intro s
  refine ⟨fun id hid => ?id, fun pid c data hlen => ?data, fun sp hlen => ?sp⟩
  case id =>
    have hwf : decide (id.toNat < 64) = false := decide_eq_false (by omega)
    exact ⟨answerTyped_of_ill_typed s hwf, answerTyped_of_ill_typed s hwf⟩
  case data =>
    have hwf : decide (data.length ≤ 8) = false := decide_eq_false (by omega)
    exact ⟨answerTyped_of_ill_typed s hwf, answerTyped_of_ill_typed s hwf⟩
  case sp => exact answerTyped_of_ill_typed s (beq_eq_false_iff_ne.2 hlen)

/-- Settles O7: each operation is accepted with its procedure. -/
theorem operationsAccepted : Obligations.OperationsAccepted := by
  unfold Obligations.OperationsAccepted
  intro s x h
  exact ⟨acceptOw_idle .reset _ h, acceptOw_idle .wrb _ h, acceptOw_idle .rb _ h, acceptOw_idle .wb _ h,
    acceptOw_idle .start _ h, acceptOw_idle .rawTemp _ h⟩

/-- Settles O8: each operation is refused with its selector. -/
theorem operationsRefusedWhenBusy : Obligations.OperationsRefusedWhenBusy := by
  unfold Obligations.OperationsRefusedWhenBusy
  intro s x h
  exact ⟨acceptOw_not_idle .reset _ h, acceptOw_not_idle .wrb _ h, acceptOw_not_idle .rb _ h, acceptOw_not_idle .wb _ h,
    acceptOw_not_idle .start _ h, acceptOw_not_idle .rawTemp _ h⟩

end Sys2Proof.Machine
end

section
/-! What a step runs: the move that is listed, and the row that a turn selects. Settles O45, O47. -/

namespace Sys2Proof.Machine

/-! ### The moves -/

/-- A step makes the listed move, in the state without it (log entry 9). -/
theorem step_of_moves {s : State} {m : Move} {ms : List Move} (h : s.env.moves = m :: ms) :
    step s = runMove m (movesLeft ms s) := by
  simp [step, takeMove, h, movesLeft]

/-! ### The LIN agent's turn -/

/-- With a byte to read, the turn makes the transition that the engine state and the byte are decoded to (30_encoding.md R103). -/
theorem linTurn_of_byte {s : State} {b : Byte} {rest : List RxItem} {sel : LinSel} {i : Instr} (hl : s.lin.lst.reads = true)
    (hrx : s.env.linRx = .byte b :: rest) (hsel : linSelect s.lin = .ok sel) (hi : decode (.linStep sel (some b)) = .ok i) :
    linTurn s = exec i (linInput rest s) := by
  have hfetch : linFetch s = .instr i (linInput rest s) := by
    cases hlst : s.lin.lst with
    | scanBreak | scanSync | readPid | recvCmd => simp [linFetch, linDecoded, hlst, hrx, hsel, hi, linInput]
    | respond | drop | faulted => simp [hlst, Lst.reads] at hl
  simp [linTurn, hfetch]

theorem linTurn_respond {s : State} (h : s.lin.lst = .respond) : linTurn s = exec .engRespond s := by
  simp [linTurn, linFetch, h, linDecoded, decode, decodeLinStep]

theorem linTurn_drop {s : State} (h : s.lin.lst = .drop) : linTurn s = exec .engDrop s := by
  simp [linTurn, linFetch, h, linDecoded, decode, decodeLinStep]

/-- In RECV_CMD with data bytes to come, a data byte is selected. -/
theorem linSelect_recvData {l : LinAgent} {cnt : Nat} (hl : l.lst = .recvCmd) (hp : cmdPhase l = .ok (.data cnt)) :
    linSelect l = .ok .recvData := by
  simp [linSelect, hl, hp]

/-- In RECV_CMD with all data bytes received, the frame's checksum is selected. -/
theorem linSelect_recvCheck {l : LinAgent} {pid : Byte} {d : List Byte} (hl : l.lst = .recvCmd)
    (hp : cmdPhase l = .ok (.check pid d)) : linSelect l = .ok (.recvCheck (csumGen pid d)) := by
  simp [linSelect, hl, hp]

/-- A buffer whose first elements hold these bytes is read as them. -/
theorem readPrefix_of_take {n : Nat} {e : Elem} {buf : Vector (Option Byte) n} {d : List Byte} {len : Nat} (hn : len ≤ n)
    (h : buf.toList.take len = d.map some) : readPrefix e buf len = .ok d := by
  simp [readPrefix, hn, h]

/-! ### The obligations -/

/-- Settles O45: in each state, the selection and the row it and the byte are decoded to. -/
theorem transitionIsSelected : Obligations.TransitionIsSelected := by
  unfold Obligations.TransitionIsSelected
  intro s b rest hrx
  refine ⟨fun hl => ?scanBreak, fun hl => ?scanSync, fun hl => ?readPid, fun cnt len hl hcnt hlen => ⟨fun hlt => ?data, ?check⟩⟩
  all_goals have hreads : s.lin.lst.reads = true := by rw [hl]; rfl
  case scanBreak => exact linTurn_of_byte hreads hrx (sel := .scanBreak) (by simp [linSelect, hl]) (apply_ite ..).symm
  case scanSync => exact linTurn_of_byte hreads hrx (sel := .scanSync) (by simp [linSelect, hl]) (apply_ite ..).symm
  case readPid => exact linTurn_of_byte hreads hrx (sel := .readPid) (by simp [linSelect, hl]) (apply_ite ..).symm
  case data => exact linTurn_of_byte hreads hrx (linSelect_recvData hl (cmdPhase_data hcnt hlen hlt)) rfl
  case check =>
    rintro pid d rfl hpid hmax hbuf -
    have hphase : cmdPhase s.lin = .ok (.check pid d) := cmdPhase_check hcnt hlen (readPrefix_of_take hmax hbuf) hpid
    exact linTurn_of_byte hreads hrx (linSelect_recvCheck hl hphase) (apply_ite ..).symm

/-- Settles O47: the listed move, and the row that its turn selects. -/
theorem stepRunsSelected : Obligations.StepRunsSelected := by
  unfold Obligations.StepRunsSelected
  intro s ms i
  refine ⟨fun sel args hm hi => ?host, fun sel b rest hm hrx hl hsel hi => ?linByteRead, fun hm hl => ?linOwn,
    fun hm hi => ?owRow, fun hm hi => ?owStep, fun f b hm hf hi => ?linByte⟩
  all_goals rw [step_of_moves hm]
  case host => simp [runMove, hostTurn, hi]
  case linByteRead =>
    have hreads : s.lin.lst.reads = true := by
      simp only [List.mem_cons, List.not_mem_nil, or_false] at hl
      obtain hl | hl | hl | hl := hl <;> rw [hl] <;> rfl
    exact linTurn_of_byte (s := movesLeft ms s) hreads hrx hsel hi
  case linOwn =>
    obtain ⟨hl, rfl⟩ | ⟨hl, rfl⟩ := hl
    · exact linTurn_respond (s := movesLeft ms s) hl
    · exact linTurn_drop (s := movesLeft ms s) hl
  case owRow =>
    have hfetch : owFetch (movesLeft ms s).ow = some i := hi
    simp [runMove, owTurn, hfetch]
  case owStep => exact owTurn_of_owFetch_none (s := movesLeft ms s) hi
  case linByte =>
    have hfield : linField (movesLeft ms s) = some f := hf
    simp [runMove, linByteTurn, linSymbol, hfield, hi, Except.toOption]

end Sys2Proof.Machine
end

section
/-! The LIN bytes: what an arriving byte does where the LIN agent holds, and where it does not. Settles O44. -/

namespace Sys2Proof.Machine

section Byte

variable {s : State} {b : Byte}

/-! ### Delivery (10_state.md R50; log entry 20) -/

theorem deliver_held (b : Byte) (h : linHolds s = true) : deliver b s = linTransition b s := if_pos h

theorem deliver_not_held (b : Byte) (h : linHolds s = false) :
    deliver b s = .next { s with env := { s.env with linRx := s.env.linRx ++ [.byte b] } } :=
  if_neg (by simp [h])

/-! ### The transition of a byte, in each state that awaits one (30_encoding.md R103) -/

theorem linTransition_break (h : s.lin.lst = .scanBreak) : linTransition Config.linBreak s = .next (gotoLst .scanSync s) := by
  simp [linTransition, execEngBreakHit, h]

theorem linTransition_sync (h : s.lin.lst = .scanSync) : linTransition Config.linSync s = .next (gotoLst .readPid s) := by
  simp [linTransition, execEngSyncOk, h]

theorem linTransition_pid (h : s.lin.lst = .readPid) (hb : (pidValidate b).isSome = true) :
    linTransition b s = execEngPidOk b s := by
  simp [linTransition, h, hb]

theorem linTransition_data {cnt : Nat} (h : s.lin.lst = .recvCmd) (hp : cmdPhase s.lin = .ok (.data cnt)) (hn : cnt < 8) :
    linTransition b s = .next { s with
      lin := { s.lin with cmdBuf := s.lin.cmdBuf.setIfInBounds cnt (some b), cmdCnt := some (cnt + 1) } } := by
  simp [linTransition, execEngCmdData, h, hp, Config.maxData, hn]

/-- The checksum byte decides between the handler's call 3 and E05 (42_lin_engine.md R241, R242). -/
theorem linTransition_checksum {pid : Byte} {d : List Byte} (h : s.lin.lst = .recvCmd)
    (hp : cmdPhase s.lin = .ok (.check pid d)) :
    linTransition b s = .next (endCommand (recordLin (if b = csumGen pid d then .handleCommand (pidId pid) d
      else .diag (.linChecksum (pidId pid) (csumGen pid d) b)) s)) := by
  by_cases hb : b = csumGen pid d
  · subst hb
    have hck : csumCheck pid d (csumGen pid d) = true := beq_self_eq_true _
    simp [linTransition, execEngCmdCkOk, h, hp, hck]
  · have hck : csumCheck pid d b = false := beq_eq_false_iff_ne.2 (Ne.symm hb)
    simp [linTransition, execEngCmdCkBad, h, hp, hck, hb]

/-! ### A frame that the handler answers (42_lin_engine.md R237) -/

theorem execEngPidOk_answered {id : Fid} {data : List Byte} {e : Env} (h : s.lin.lst = .readPid)
    (hd : drawBuild id s.env = (some data, e)) (hn : data.length ≤ 8) :
    execEngPidOk (pidEncode id) s = .next { s with env := e, lin := takeResponse (pidEncode id) data s.lin } := by
  simp [execEngPidOk, dispatchPid, h, hd, Config.maxData, Nat.not_lt.2 hn]

/-- Bytes written to the start of a buffer are its first elements. -/
theorem writeBytes_take {n : Nat} (buf : Vector (Option Byte) n) (bs : List Byte) (h : bs.length ≤ n) :
    (writeBytes buf 0 bs).toList.take bs.length = bs.map some := by
  simp [writeBytes_toList buf 0 bs (by omega)]

end Byte

/-! ### The obligation -/

/-- Settles O44: a held `LinRx` is completed with the transition of the awaited byte; otherwise the transport keeps the byte. -/
theorem linBytesAct : Obligations.LinBytesAct := by
  unfold Obligations.LinBytesAct
  intro s
  refine ⟨fun hold => ⟨fun hl => ?breakByte, fun hl => ?syncByte, fun id hl => ?pidByte, fun b cnt len hl hcnt hlen hlt hmax => ?data,
    fun pid c d hl hpid hmax hlen hcnt hbuf => ?checksum⟩, fun hnot b i hi => ?kept⟩
  case breakByte => exact (deliver_held _ hold).trans (linTransition_break hl)
  case syncByte => exact (deliver_held _ hold).trans (linTransition_sync hl)
  case pidByte =>
    have hrow : exec (.linPid (pidParity id) id) s = execEngPidOk (pidEncode id) s :=
      (deliver_held _ hold).trans (linTransition_pid hl (by simp [pidValidate_isSome_iff]))
    refine ⟨hrow, fun data e hd hn => ⟨_, hrow.trans (execEngPidOk_answered hl hd hn), ?_⟩⟩
    exact ⟨rfl, rfl, rfl, writeBytes_take s.lin.rspBuf data hn, rfl, rfl, rfl⟩
  case data =>
    exact (deliver_held b hold).trans (linTransition_data hl (cmdPhase_data hcnt hlen hlt) (by omega))
  case checksum =>
    have hphase : cmdPhase s.lin = .ok (.check pid d) := cmdPhase_check hcnt hlen (readPrefix_of_take hmax hbuf) hpid
    exact (deliver_held c hold).trans (linTransition_checksum hl hphase)
  case kept =>
    obtain ⟨rfl, rfl⟩ | ⟨rfl, rfl⟩ | rfl | rfl | ⟨p, id, rfl, rfl⟩ := hi
    all_goals exact deliver_not_held _ hnot

end Sys2Proof.Machine
end

section
/-! The One-Wire characters: where the pure statements before a slot lead, and what the row of the slot then answers. Settles O24. -/

namespace Sys2Proof.Machine

/-! ### The pure statements before a slot -/

section Settle

variable {c : Option DsCmd} {k : List Stmt} {w : OwAgent} {r v : Byte} {n : Nat}

/-- The end of a reset, with its readback (43_onewire.md R301). -/
theorem settle_presence (r : Byte) (c : Option DsCmd) (k : List Stmt) (w : OwAgent) :
    settle (some r) c (.presence :: k) w =
      settle (some r) none k { w with pres := some (presence r), trace := w.trace ++ absenceEvents r } := by
  by_cases hr : r = Config.owResetChar
  · have hp : presence r = false := bne_eq_false_iff_eq.2 hr
    simp [settle, presenceStmt, absenceEvents, hp, ← hr, bind, Except.bind]
  · have hp : presence r = true := bne_iff_ne.2 hr
    simp [settle, presenceStmt, absenceEvents, hp, hr, bind, Except.bind]

/-- The end of a slot, with its readback (43_onewire.md R303). -/
theorem settle_store (hv : w.rxb = some v) (hn : w.bit = some n) : settle (some r) c (.store :: k) w =
    settle (some r) none k { w with rxb := some (putBit v (slotBit r) n), bit := some (n + 1) } := by
  simp [settle, storeStmt, hv, hn, bind, Except.bind]

/-- The next slot of a byte stands behind the end of the one before (43_onewire.md R303). -/
theorem settle_store_slots {x : Byte} (hv : w.rxb = some v) (hn : w.bit = some n) (hx : w.txb = some x) (hlt : n < 7) :
    settle (some r) c (.store :: .slots :: k) w =
      .prim (.txSlot (x.getLsbD (n + 1))) (.rx :: .store :: .slots :: k)
        { w with rxb := some (putBit v (slotBit r) n), bit := some (n + 1) } none :=
  (settle_store hv hn).trans (settle_slots_lt rfl hx (Nat.succ_lt_succ hlt))

/-- The end of a byte, with the readback of its last slot (43_onewire.md R303). -/
theorem settle_lastStore (hv : w.rxb = some v) (hn : w.bit = some 7) :
    settle (some r) c (.store :: .slots :: .unload :: k) w =
      settle (some r) none k { w with result := some (putBit v (slotBit r) 7), txb := none, rxb := none, bit := none } := by
  rw [settle_store hv hn, settle_slots_ge rfl (by decide)]
  simp [settle, unloadStmt, bind, Except.bind]

theorem settle_idxZero (o : Option Byte) (c : Option DsCmd) (k : List Stmt) (w : OwAgent) :
    settle o c (.idxZero :: k) w = settle o none k { w with idx := some 0 } := rfl

/-- The end of a scratchpad byte (44_ds18b20_crc8.md R346). -/
theorem settle_storeByte {o : Option Byte} (hv : w.result = some v) (hi : w.idx = some n) (hn : n < Config.spLen) :
    settle o c (.storeByte :: k) w =
      settle o none k { w with sp := w.sp.setIfInBounds n (some v), idx := some (n + 1) } := by
  simp [settle, storeByteStmt, hv, hi, hn, bind, Except.bind]

/-- The scratchpad's byte 0 is begun behind the last slot of a command (44_ds18b20_crc8.md R346). -/
theorem settle_firstPadSlot (hv : w.rxb = some v) (hn : w.bit = some 7) :
    settle (some r) c (.store :: .slots :: .unload :: .idxZero :: .readBytes :: k) w =
      .prim (.txSlot true) (.rx :: .store :: .slots :: .unload :: .storeByte :: .readBytes :: k)
        (loadByte 0xFF { w with result := some (putBit v (slotBit r) 7), idx := some 0 }) none := by
  calc settle (some r) c (.store :: .slots :: .unload :: .idxZero :: .readBytes :: k) w
    _ = settle (some r) none (.idxZero :: .readBytes :: k) _ := settle_lastStore hv hn
    _ = settle (some r) none (.readBytes :: k) _ := settle_idxZero ..
    _ = _ := settle_readBytes_lt (n := 0) rfl (by decide)

/-- A later scratchpad byte is begun behind the last slot of the one before (44_ds18b20_crc8.md R346). -/
theorem settle_nextPadSlot (hv : w.rxb = some v) (hn : w.bit = some 7) (hi : w.idx = some n) (hlt : n < 8) :
    settle (some r) c (.store :: .slots :: .unload :: .storeByte :: .readBytes :: k) w =
      .prim (.txSlot true) (.rx :: .store :: .slots :: .unload :: .storeByte :: .readBytes :: k)
        (loadByte 0xFF { w with
          result := some (putBit v (slotBit r) 7), idx := some (n + 1)
          sp := w.sp.setIfInBounds n (some (putBit v (slotBit r) 7)) }) none := by
  calc settle (some r) c (.store :: .slots :: .unload :: .storeByte :: .readBytes :: k) w
    _ = settle (some r) none (.storeByte :: .readBytes :: k) _ := settle_lastStore hv hn
    _ = settle (some r) none (.readBytes :: k) _ := settle_storeByte rfl hi (Nat.lt_succ_of_lt hlt)
    _ = _ := settle_readBytes_lt rfl (Nat.succ_lt_succ hlt)

/-- Every command's bit 0 is 0 (30_encoding.md R108). -/
theorem settle_command (o : Option Byte) (c : Option DsCmd) (d : DsCmd) (k : List Stmt) (w : OwAgent) :
    settle o c (.command d :: .slots :: k) w =
      .prim (.txSlot false) (.rx :: .store :: .slots :: k) (loadByte (dsCmdByte d) w) (some d) := by
  rw [settle_command_slots]
  cases d <;> rfl

end Settle

/-! ### The rows, as steps of the OW agent -/

section Rows

variable {s : State} {q : Seq} {bit : Bool} {k : List Stmt} {w : OwAgent} {c : Option DsCmd} {d : DsCmd}

/-- A BUSY agent whose pure statements lead to a primitive has it next. -/
theorem owPending_of_settle {p : Prim} (hb : s.ow.owst = .busy) (hq : s.ow.seq = some q)
    (hp : settle q.r none q.todo s.ow = .prim p k w c) : owPending s.ow = some (p, c) := by
  simp [owPending, hb, hq, hp]

/-- A slot's character row is the step where that slot is next (log entry 21). -/
theorem exec_charSlot (hp : owPending s.ow = some (.txSlot bit, c)) :
    exec (if bit then .owCharSlot1 else .owCharSlot0) s = owStep s := by
  cases bit <;> simp [exec, execOwCharSlot1, execOwCharSlot0, hp]

/-- A command's row is the step where its first slot is next (log entry 21). -/
theorem exec_dsCmdInstr {p : Prim} (hp : owPending s.ow = some (p, some d)) : exec (dsCmdInstr d) s = owStep s := by
  cases d <;> simp [dsCmdInstr, exec, execDsCmdSkipRom, execDsCmdConvert, execDsCmdReadSp, beginCommand, hp]

/-- The state in which a slot's character has been sent from `w`, the agent after the pure statements before it, and `k` follows. -/
def slotSent (ch : Byte) (k : List Stmt) (r : Option Byte) (w : OwAgent) (s : State) : State :=
  { s with env := (drawOwTx s.env).2, ow := { w with trace := w.trace ++ [.tx ch], seq := some ⟨k, r⟩ } }

/-- The step of a slot at 115200 baud whose write completes. -/
theorem owStep_slotSent (hb : s.ow.owst = .busy) (hq : s.ow.seq = some q)
    (hp : settle q.r none q.todo s.ow = .prim (.txSlot bit) k w c) (hr : s.ow.baud = .b115200)
    (hd : (drawOwTx s.env).1 = true) : owStep s = .next (slotSent (slotChar bit) k q.r w s) := by
  obtain ⟨-, -, -, hbaud, -, -⟩ := settle_frame hp
  exact owStep_txSlot hb hq hp (hbaud.trans hr) (Prod.ext hd rfl)

/-- The row of a slot, in the same state. -/
theorem exec_charSlot_sent (hb : s.ow.owst = .busy) (hq : s.ow.seq = some q)
    (hp : settle q.r none q.todo s.ow = .prim (.txSlot bit) k w c) (hr : s.ow.baud = .b115200)
    (hd : (drawOwTx s.env).1 = true) :
    exec (if bit then .owCharSlot1 else .owCharSlot0) s = .next (slotSent (slotChar bit) k q.r w s) :=
  (exec_charSlot (owPending_of_settle hb hq hp)).trans (owStep_slotSent hb hq hp hr hd)

/-- The row of a command, in the state before its first slot. -/
theorem exec_dsCmdInstr_sent (hb : s.ow.owst = .busy) (hq : s.ow.seq = some q)
    (hp : settle q.r none q.todo s.ow = .prim (.txSlot false) k w (some d)) (hr : s.ow.baud = .b115200)
    (hd : (drawOwTx s.env).1 = true) : exec (dsCmdInstr d) s = .next (slotSent 0x00 k q.r w s) :=
  (exec_dsCmdInstr (owPending_of_settle hb hq hp)).trans (owStep_slotSent hb hq hp hr hd)

/-- The row of the reset character (43_onewire.md R301). -/
theorem exec_charReset_sent {r : Option Byte} (hb : s.ow.owst = .busy) (hq : s.ow.seq = some ⟨.txReset :: .rx :: k, r⟩)
    (hd : (drawOwTx s.env).1 = true) : exec .owCharReset s = .next (slotSent 0xF0 (.rx :: k) r s.ow s) := by
  have hp : settle r none (.txReset :: .rx :: k) s.ow = .prim .txReset (.rx :: k) s.ow none := rfl
  have hdraw : drawOwTx s.env = (true, (drawOwTx s.env).2) := Prod.ext hd rfl
  calc exec .owCharReset s
      _ = owStep s := by simp [exec, execOwCharReset, owPending_of_settle hb hq hp]
      _ = transmit 0xF0 (.rx :: k) r s.ow s := owStep_prim hb hq hp
      _ = .next (slotSent 0xF0 (.rx :: k) r s.ow s) := by
        unfold transmit; rw [hdraw]; rfl

theorem wire_append (t₁ t₂ : List OwEvent) : wire (t₁ ++ t₂) = wire t₁ ++ wire t₂ := List.filter_append ..

/-- In a state of the invariant, a slot's row sends its character, whatever pure statements are before it. -/
theorem exec_charSlot_frame (hs : s.Inv) (hp : owPending s.ow = some (.txSlot bit, c)) (hr : s.ow.baud = .b115200)
    (hd : (drawOwTx s.env).1 = true) : ∃ t, exec (if bit then .owCharSlot1 else .owCharSlot0) s = .next t ∧
      wire t.ow.trace = wire s.ow.trace ++ [.tx (slotChar bit)] ∧ t.ow.baud = s.ow.baud ∧ t.ow.fault = none ∧
      t.lin = s.lin ∧ t.host = s.host ∧ t.env = (drawOwTx s.env).2 := by
  obtain ⟨hb, q, k, w, hq, hsettle⟩ := owPending_eq_some hp
  obtain ⟨-, -, -, hbaud, hfault, hwire⟩ := settle_frame hsettle
  obtain ⟨_, _, o, hrun⟩ := (OwAgent.ok_busy_iff hb).1 hs.2
  refine ⟨_, exec_charSlot_sent hb hq hsettle hr hd, ?_, hbaud, hfault.trans hrun.noFault, rfl, rfl, rfl⟩
  calc wire (w.trace ++ [.tx (slotChar bit)])
    _ = wire s.ow.trace ++ [.tx (slotChar bit)] := by rw [wire_append, hwire]; rfl

end Rows

/-! ### The obligation -/

/-- Settles O24: the pure statements at each place lead to the slot, and the row of the slot is its step. -/
theorem charactersAreSent : Obligations.CharactersAreSent := by
  unfold Obligations.CharactersAreSent
  intro s c hd
  refine ⟨fun k r hb hq => ?reset, fun k r n x hb hq hn hx hlt hr => ?head, fun hs hp hr => ?any1, fun hs hp hr => ?any0,
    fun hb hr => ⟨fun x k r hq => ?first, fun k r n x v hq hn hlt hx hv => ?further, fun k r v hq hn hv => ?firstOfPad,
      fun k r v i hq hn hv hi hlt => ?laterOfPad⟩⟩
  case reset => exact exec_charReset_sent hb hq hd
  case head =>
    have hsettle := settle_slots_lt (r := r) (c := none) (k := k) hn hx hlt
    constructor <;> intro hbit <;> rw [hbit] at hsettle <;> exact exec_charSlot_sent hb hq hsettle hr hd
  case any1 => exact exec_charSlot_frame hs hp hr hd
  case any0 => exact exec_charSlot_frame hs hp hr hd
  case first => exact exec_charSlot_sent hb hq (settle_load_slots ..) hr hd
  case further => exact exec_charSlot_sent hb hq (settle_store_slots hv hn hx hlt) hr hd
  case firstOfPad => exact exec_charSlot_sent hb hq (settle_firstPadSlot hv hn) hr hd
  case laterOfPad => exact exec_charSlot_sent hb hq (settle_nextPadSlot hv hn hi hlt) hr hd

end Sys2Proof.Machine
end

section
/-! The DS18B20 commands: the step that begins one, and the eight slots of its byte, a character and its readback each.
Settles O25. -/

namespace Sys2Proof.Machine

section Slots

variable {s : State} {k : List Stmt} {w : OwAgent} {d : DsCmd}

/-! ### What several steps add to the line -/

/-- From `s` to `u`, these are the events on the line, and the rate and the LIN agent stay as they are. -/
structure Sends (es : List OwEvent) (s u : State) : Prop where
  wire : wire u.ow.trace = wire s.ow.trace ++ es
  baud : u.ow.baud = s.ow.baud
  lin : u.lin = s.lin

theorem Sends.refl (s : State) : Sends [] s s := ⟨(List.append_nil _).symm, rfl, rfl⟩

theorem Sends.trans {es₁ es₂ : List OwEvent} {s t u : State} (h₁ : Sends es₁ s t) (h₂ : Sends es₂ t u) :
    Sends (es₁ ++ es₂) s u :=
  ⟨by rw [h₂.wire, h₁.wire, List.append_assoc], h₂.baud.trans h₁.baud, h₂.lin.trans h₁.lin⟩

/-- What follows a primitive of a running procedure: the agent stands before the next one, or the operation has ended. The line
sees nothing of it. -/
theorem completePrim_of_running {o : OwOp} {r : Option Byte} (hw : Running o r k w) (s : State) :
    ∃ u, completePrim k r w s = .next u ∧ wire u.ow.trace = wire w.trace ∧ u.ow.baud = w.baud ∧ u.lin = s.lin ∧
      u.env = s.env ∧ (∀ p k' w' c, settle r none k w = .prim p k' w' c → u.ow = { w with seq := some ⟨k, r⟩ }) := by
  have hsound := settle_sound (c := none) hw
  unfold completePrim
  split
  · exact ⟨_, rfl, rfl, rfl, rfl, rfl, fun _ _ _ _ _ => rfl⟩
  · next op v w' hdone =>
    obtain ⟨-, -, -, hbaud, -, hwire⟩ : PureFrame w w' := settle_agent_frame (by rw [hdone]; rfl)
    refine ⟨_, rfl, ?_, hbaud, rfl, rfl, fun p k' v' c hprim => by cases hdone.symm.trans hprim⟩
    calc wire (w'.trace ++ [.ret v])
      _ = wire w.trace := by rw [wire_append, hwire]; exact List.append_nil _
  · next hstop => exact (hstop ▸ hsound : Settled.Sound o r (.stop _)).elim

/-! ### The slots of a byte (43_onewire.md R303) -/

/-- The pure statements of the procedure `q` lead from the agent to `w`, which sends slot `n` of the byte `x` in operation `o`. -/
structure SlotNext (x : Byte) (n : Nat) (s : State) (q : Seq) (k : List Stmt) (w : OwAgent) (c : Option DsCmd) (o : OwOp) :
    Prop where
  busy : s.ow.owst = .busy
  seq : s.ow.seq = some q
  settled : settle q.r none q.todo s.ow = .prim (.txSlot (x.getLsbD n)) (.rx :: .store :: .slots :: k) w c
  txb : w.txb = some x
  rxb : ∃ v, w.rxb = some v
  bit : w.bit = some n
  running : Running o q.r (.rx :: .store :: .slots :: k) w

/-- The agent stands before slot `n` of the byte `x`. -/
def Sending (x : Byte) (n : Nat) (s : State) : Prop := ∃ q k w c o, SlotNext x n s q k w c o

/-- In a state of the invariant, the first slot of a command stands before slot 0 of its byte. -/
theorem sending_of_owPending {b : Bool} (hs : s.Inv) (hp : owPending s.ow = some (.txSlot b, some d)) :
    Sending (dsCmdByte d) 0 s := by
  obtain ⟨hb, q, k', w, hq, hsettle⟩ := owPending_eq_some hp
  obtain ⟨k, rfl⟩ := settle_txSlot hsettle
  obtain ⟨⟨htxb, hrxb, hbit⟩, hslot⟩ := settle_begun (c := none) nofun hsettle
  obtain ⟨q', hq', o, hrun⟩ := (OwAgent.ok_busy_iff hb).1 hs.2
  obtain rfl : q' = q := Option.some.inj (hq'.symm.trans hq)
  have hsound := settle_sound (c := none) hrun
  rw [hsettle] at hsound
  rw [hslot] at hsettle
  exact ⟨_, k, w, _, o, hb, hq, hsettle, htxb, ⟨0, hrxb⟩, hbit, hsound.1 nofun⟩

/-- Behind an `OwRx`, the procedure runs on with whatever readback it gives. -/
theorem Running.afterRx {o : OwOp} {r : Option Byte} (h : Running o r (.rx :: k) w) (b : Byte) : Running o (some b) k w :=
  { h with covered := h.covered }

/-- The step of an `OwRx` at the head of a running procedure, with its readback listed. -/
theorem owStep_rx {o : OwOp} {r : Option Byte} {b : Byte} {rx : List RxItem} (hw : Running o r (.rx :: k) s.ow)
    (hq : s.ow.seq = some ⟨.rx :: k, r⟩) (hrx : s.env.owRx = .byte b :: rx) :
    ∃ u, owStep s = .next u ∧ Sends [.rx b] s u ∧ u.env = { s.env with owRx := rx } ∧
      (∀ p k' w' c, settle (some b) none k { s.ow with trace := s.ow.trace ++ [.rx b] } = .prim p k' w' c →
        u.ow = { s.ow with trace := s.ow.trace ++ [.rx b], seq := some ⟨k, some b⟩ }) := by
  have hp : settle r none (.rx :: k) s.ow = .prim .rx k s.ow none := rfl
  obtain ⟨u, hu, hwire, hbaud, hlin, henv, hnext⟩ :=
    completePrim_of_running ((hw.afterRx b).aside s.ow.seq s.ow.baud (s.ow.trace ++ [.rx b]))
      { s with env := { s.env with owRx := rx } }
  refine ⟨u, ?_, ⟨hwire.trans (wire_append ..), hbaud, hlin⟩, henv, hnext⟩
  simpa [owStep_prim hw.busy hq hp, runPrim, receive, hrx] using hu

theorem owSteps_one (s : State) : owSteps 1 s = owStep s := by
  simp only [owSteps]
  cases owStep s <;> rfl

/-- A slot is two steps, its character and its readback (43_onewire.md R302), and the next slot of the byte follows. -/
theorem Sending.slot {x : Byte} {n : Nat} {r : Byte} {rx : List RxItem} {tx : List Bool} (h : Sending x n s)
    (hr : s.ow.baud = .b115200) (hrx : s.env.owRx = .byte r :: rx) (htx : s.env.owTx = true :: tx) :
    ∃ u, owSteps 2 s = .next u ∧ Sends [.tx (slotChar (x.getLsbD n)), .rx r] s u ∧
      u.env = { s.env with owRx := rx, owTx := tx } ∧ (n < 7 → Sending x (n + 1) u) := by
  obtain ⟨q, k, w, c, o, h⟩ := h
  obtain ⟨-, -, -, hbaud, -, hwire⟩ := settle_frame h.settled
  have hdraw : drawOwTx s.env = (true, { s.env with owTx := tx }) := drawOwTx_listed true tx s.env htx
  have hsent := owStep_slotSent h.busy h.seq h.settled hr (by rw [hdraw])
  have hchar : Sends [.tx (slotChar (x.getLsbD n))] s
      (slotSent (slotChar (x.getLsbD n)) (.rx :: .store :: .slots :: k) q.r w s) :=
    ⟨by simp only [slotSent, wire_append, hwire]; rfl, hbaud, rfl⟩
  obtain ⟨u, hu, hreadback, henv, hnext⟩ :=
    owStep_rx (s := slotSent (slotChar (x.getLsbD n)) (.rx :: .store :: .slots :: k) q.r w s)
      (h.running.aside _ w.baud _) rfl (by simpa [slotSent, hdraw] using hrx)
  refine ⟨u, ?steps, hchar.trans hreadback, by simpa [slotSent, hdraw] using henv, fun hlt => ?next⟩
  case steps => rw [owSteps_succ hsent, owSteps_one, hu]
  case next =>
    obtain ⟨v, hv⟩ := h.rxb
    have how := hnext _ _ _ _ (settle_store_slots hv h.bit h.txb hlt)
    have hrun : Running o (some r) (.store :: .slots :: k) u.ow := by
      rw [how]
      exact (h.running.afterRx r).aside _ w.baud _
    have hsettle : settle (some r) none (.store :: .slots :: k) u.ow = _ :=
      settle_store_slots (by rw [how]; exact hv) (by rw [how]; exact h.bit) (by rw [how]; exact h.txb) hlt
    have hsound := settle_sound (c := none) hrun
    rw [hsettle] at hsound
    exact ⟨_, k, _, _, o, hrun.busy, by rw [how], hsettle, by rw [how]; exact h.txb, ⟨_, rfl⟩, rfl, hsound.1 nofun⟩

/-! ### All slots of a byte -/

/-- The events of the slots of `x` from slot `n` on, each with its readback. -/
def slotEventsFrom (x : Byte) : Nat → List Byte → List OwEvent
  | _, [] => []
  | n, r :: rs => [.tx (slotChar (x.getLsbD n)), .rx r] ++ slotEventsFrom x (n + 1) rs

/-- The slots of a byte from slot `n` on, two steps for each. -/
theorem owSteps_slots {x : Byte} {n : Nat} {rs : List Byte} {rx : List RxItem} {tx : List Bool} (hlen : n + rs.length = 8)
    (h : n < 8 → Sending x n s) (hr : s.ow.baud = .b115200) (hrx : s.env.owRx = rs.map .byte ++ rx)
    (htx : s.env.owTx = List.replicate rs.length true ++ tx) :
    ∃ u, owSteps (2 * rs.length) s = .next u ∧ Sends (slotEventsFrom x n rs) s u ∧
      u.env = { s.env with owRx := rx, owTx := tx } := by
  induction rs generalizing n s with
  | nil =>
    obtain rfl : s.env.owRx = rx := hrx
    obtain rfl : s.env.owTx = tx := htx
    exact ⟨s, rfl, .refl s, rfl⟩
  | cons r rs ih =>
    simp only [List.length_cons] at hlen
    obtain ⟨t, ht, hsends, henv, hnext⟩ := (h (by omega)).slot hr hrx htx
    obtain ⟨u, hu, hsends', henv'⟩ := ih (n := n + 1) (s := t) (by omega) (fun hlt => hnext (by omega))
      (hsends.baud.trans hr) (congrArg Env.owRx henv) (congrArg Env.owTx henv)
    refine ⟨u, ?_, hsends.trans hsends', by rw [henv', henv]⟩
    rw [List.length_cons, Nat.mul_add, Nat.add_comm, owSteps_add ht]
    exact hu

/-! ### A command -/

/-- A command's row, whatever pure statements are before it, loads the command's byte and sends the character of its bit 0. -/
theorem exec_dsCmdInstr_begun (hd : (drawOwTx s.env).1 = true) (hp : owPending s.ow = some (.txSlot false, some d))
    (hr : s.ow.baud = .b115200) :
    ∃ t, exec (dsCmdInstr d) s = .next t ∧ Begun d t.ow ∧ t.ow.owst = .busy ∧ t.ow.op = s.ow.op ∧ t.ow.fault = s.ow.fault ∧
      Sends [.tx 0x00] s t ∧ t.host = s.host ∧ t.env = (drawOwTx s.env).2 := by
  obtain ⟨hb, q, k, w, hq, hsettle⟩ := owPending_eq_some hp
  obtain ⟨howst, hop, -, hbaud, hfault, hwire⟩ := settle_frame hsettle
  obtain ⟨hbegun, -⟩ := settle_begun (c := none) nofun hsettle
  refine ⟨_, exec_dsCmdInstr_sent hb hq hsettle hr hd, hbegun, howst.trans hb, hop, hfault, ⟨?_, hbaud, rfl⟩, rfl, rfl⟩
  simp only [slotSent, wire_append, hwire]; rfl

end Slots

/-! ### The obligation -/

/-- Settles O25: the row is the step of the command's first slot, wherever that is next, and the slots of its byte follow it. -/
theorem commandsAreSent : Obligations.CommandsAreSent := by
  unfold Obligations.CommandsAreSent
  intro s cmd row byte chars begun
  have hrow : row = dsCmdInstr cmd := by cases cmd <;> rfl
  have hbyte : byte = dsCmdByte cmd := by cases cmd <;> rfl
  rw [hrow, hbyte]
  refine ⟨fun hd hp hr => ?row, fun rs rx tx hs hp hr hrx htx => ?slots, fun hd hb hr =>
    ⟨fun k r hq => ?head, fun k r hq => ?behindPresence, fun k r v hq hn hv => ?behindCommand⟩⟩
  case row =>
    obtain ⟨t, ht, ⟨htxb, hrxb, hbit⟩, hbusy, hop, hfault, hsends, hhost, henv⟩ := exec_dsCmdInstr_begun hd hp hr
    exact ⟨t, ht, htxb, hrxb, hbit, hbusy, hop, hsends.baud.trans hr, hfault, hsends.wire, hsends.lin, hhost, henv⟩
  case slots =>
    have hd : (drawOwTx s.env).1 = true := by rw [drawOwTx_listed true _ s.env htx]
    obtain ⟨t, ht, -⟩ := exec_dsCmdInstr_begun hd hp hr
    have hstep : owStep s = .next t := (exec_dsCmdInstr hp).symm.trans ht
    obtain ⟨u, hu, hsends, henv⟩ := owSteps_slots (rs := List.ofFn rs) (rx := rx) (tx := tx) (by simp)
      (fun _ => sending_of_owPending hs hp) hr hrx (by rw [htx, List.length_ofFn])
    have hevents : slotEventsFrom (dsCmdByte cmd) 0 (List.ofFn rs) =
        ((chars.zip (List.ofFn rs)).map fun p => [OwEvent.tx p.1, OwEvent.rx p.2]).flatten := by cases cmd <;> rfl
    refine ⟨t, u, ht, ?_, hevents ▸ hsends.wire, hsends.baud.trans hr, hsends.lin, henv⟩
    rw [← hu, List.length_ofFn, owSteps_succ hstep]
  case head => exact exec_dsCmdInstr_sent hb hq (settle_command ..) hr hd
  case behindPresence =>
    exact exec_dsCmdInstr_sent hb hq ((settle_presence ..).trans (settle_command ..)) hr hd
  case behindCommand =>
    exact exec_dsCmdInstr_sent hb hq ((settle_lastStore hv hn).trans (settle_command ..)) hr hd

end Sys2Proof.Machine
end

section
/-! The PID unit: its answers, and which bytes are PIDs (41_lin_pid_checksum.md R200 to R202). Settles O9 and O10. -/

namespace Sys2Proof.Machine

/-- A functional unit answers arguments of its types (30_encoding.md R110). -/
theorem answerTyped_of_typed {typed : Bool} {sel : Byte} {v : HostValue} (s : State) (h : typed = true) :
    answerTyped typed sel v s = .next { s with host := s.host ++ [.answered sel v] } := by
  subst h; rfl

/-! ### PID bytes -/

@[simp] theorem argId_setWidth (id : Fid) : argId (id.setWidth 8) = id :=
  (BitVec.setWidth_setWidth_of_le id (by decide)).trans (BitVec.setWidth_eq id)

@[simp] theorem pidByte_pidBits_pidId (b : Byte) : pidByte (pidBits b) (pidId b) = b :=
  (BitVec.extractLsb'_append_extractLsb'_eq_extractLsb' rfl).trans BitVec.extractLsb'_eq_self

theorem pidValidate_eq_some_iff {b : Byte} {id : Fid} : pidValidate b = some id ↔ b = pidEncode id := by
  constructor
  · intro h
    obtain ⟨hp, rfl⟩ : pidBits b = pidParity (pidId b) ∧ pidId b = id := by simpa [pidValidate] using h
    rw [pidEncode, ← hp, pidByte_pidBits_pidId]
  · rintro rfl
    exact pidValidate_pidEncode id

theorem pidValidate_eq_none_iff {b : Byte} : pidValidate b = none ↔ ∀ id, b ≠ pidEncode id := by
  simp only [Option.eq_none_iff_forall_ne_some, ne_eq, pidValidate_eq_some_iff]

/-! ### The obligations -/

/-- Settles O9: the argument is typed, and the id it carries is the one whose parity is written out. -/
theorem pidUnitAnswers : Obligations.PidUnitAnswers := by
  unfold Obligations.PidUnitAnswers
  intro s id b p0 p1
  have htyped : decide ((id.setWidth 8).toNat < 64) = true := by
    rw [decide_eq_true_iff, BitVec.toNat_setWidth]; omega
  have hparity : BitVec.ofBool p1 ++ BitVec.ofBool p0 = pidParity id := rfl
  have hencode : pidParity id ++ id = pidEncode id := rfl
  rw [hparity, hencode]
  refine ⟨?parity, ?encode, fun hb => ?valid, fun hb => ?invalid⟩
  case parity => exact (answerTyped_of_typed s htyped).trans (by rw [argId_setWidth])
  case encode => exact (answerTyped_of_typed s htyped).trans (by rw [argId_setWidth])
  case valid => rw [← pidValidate_eq_some_iff.2 hb]; rfl
  case invalid => rw [← pidValidate_eq_none_iff.2 hb]; rfl

/-- Settles O10: the parity field of an encoding is its id's, and no other byte's is. -/
theorem validPidIffEncoded : Obligations.ValidPidIffEncoded := by
  unfold Obligations.ValidPidIffEncoded
  exact ⟨fun b id => pidValidate_eq_some_iff, by decide⟩

end Sys2Proof.Machine
end

section
/-! The checksum unit: what the carry-folded sum keeps of the exact sum, and what a checksum detects
(41_lin_pid_checksum.md R203 to R207). Settles O11 to O15. -/

namespace Sys2Proof.Machine

/-! ### Carry-folded addition (R203) -/

theorem csumAdd_toNat (x b : Byte) : (csumAdd x b).toNat =
    if x.toNat + b.toNat > 255 then x.toNat + b.toNat - 255 else x.toNat + b.toNat := by
  simp only [csumAdd]
  split
  · rw [BitVec.toNat_ofNat]; omega
  · rw [BitVec.toNat_ofNat]; omega

theorem csumAdd_toNat_mod (x b : Byte) : (csumAdd x b).toNat % 255 = (x.toNat + b.toNat) % 255 := by
  rw [csumAdd_toNat]; split <;> omega

theorem csumAdd_toNat_eq_zero_iff (x b : Byte) : (csumAdd x b).toNat = 0 ↔ x.toNat + b.toNat = 0 := by
  rw [csumAdd_toNat]; split <;> omega

@[simp] theorem csumAdd_zero (x : Byte) : csumAdd x 0 = x := by
  have hzero : (0 : Byte).toNat = 0 := rfl
  apply BitVec.eq_of_toNat_eq
  rw [csumAdd_toNat]
  split <;> omega

theorem csumAdd_ones {x : Byte} (hx : x ≠ 0) : csumAdd x 0xFF = x := by
  have hpos : x.toNat ≠ 0 := fun h => hx (BitVec.eq_of_toNat_eq h)
  have hones : (0xFF : Byte).toNat = 255 := rfl
  apply BitVec.eq_of_toNat_eq
  rw [csumAdd_toNat]
  split <;> omega

/-! ### The folded sum and the exact sum (R204, R206) -/

@[simp] theorem csumFold_cons (pid b : Byte) (data : List Byte) :
    csumFold pid (b :: data) = csumFold (csumAdd pid b) data := rfl

@[simp] theorem csumFold_concat (pid b : Byte) (data : List Byte) :
    csumFold pid (data ++ [b]) = csumAdd (csumFold pid data) b := List.foldl_concat ..

theorem csumFold_toNat_mod (pid : Byte) (data : List Byte) :
    (csumFold pid data).toNat % 255 = (pid.toNat + (data.map BitVec.toNat).sum) % 255 := by
  induction data generalizing pid with
  | nil => rfl
  | cons b data ih =>
    have hadd := csumAdd_toNat_mod pid b
    rw [csumFold_cons, ih, List.map_cons, List.sum_cons]
    omega

theorem csumFold_toNat_eq_zero_iff (pid : Byte) (data : List Byte) :
    (csumFold pid data).toNat = 0 ↔ pid.toNat + (data.map BitVec.toNat).sum = 0 := by
  induction data generalizing pid with
  | nil => rfl
  | cons b data ih =>
    have hadd := csumAdd_toNat_eq_zero_iff pid b
    rw [csumFold_cons, ih, List.map_cons, List.sum_cons]
    omega

/-! ### What a checksum detects (R207) -/

theorem csumCheck_eq_true_iff {pid c : Byte} {data : List Byte} : csumCheck pid data c = true ↔ csumGen pid data = c :=
  beq_iff_eq

theorem csumCheck_eq_false_iff {pid c : Byte} {data : List Byte} : csumCheck pid data c = false ↔ csumGen pid data ≠ c :=
  beq_eq_false_iff_ne

/-- The only two bytes that agree modulo 255 are 0x00 and 0xFF. -/
theorem xor_eq_ones_of_toNat_mod_eq {x y : Byte} (h : x.toNat % 255 = y.toNat % 255) (hne : x ≠ y) : x ^^^ y = 0xFF := by
  have hx := x.isLt
  have hy := y.isLt
  have hne' : x.toNat ≠ y.toNat := fun e => hne (BitVec.eq_of_toNat_eq e)
  obtain ⟨h0, h1⟩ | ⟨h1, h0⟩ : (x.toNat = 0 ∧ y.toNat = 255) ∨ (x.toNat = 255 ∧ y.toNat = 0) := by omega
  · rw [BitVec.eq_of_toNat_eq (y := 0x00) h0, BitVec.eq_of_toNat_eq (y := 0xFF) h1]; rfl
  · rw [BitVec.eq_of_toNat_eq (y := 0xFF) h1, BitVec.eq_of_toNat_eq (y := 0x00) h0]; rfl

theorem xor_ne_self {b m : Byte} (h : m ≠ 0x00) : b ^^^ m ≠ b := fun e =>
  h ((BitVec.xor_right_inj b).1 (e.trans BitVec.xor_zero.symm))

/-- A mask other than 0x00 and 0xFF changes a byte modulo 255. -/
theorem toNat_xor_mod_ne {b m : Byte} (h0 : m ≠ 0x00) (h1 : m ≠ 0xFF) : (b ^^^ m).toNat % 255 ≠ b.toNat % 255 := by
  intro h
  have hones : b ^^^ m ^^^ b = 0xFF := xor_eq_ones_of_toNat_mod_eq h (xor_ne_self h0)
  exact h1 (by rwa [BitVec.xor_comm, ← BitVec.xor_assoc, BitVec.xor_self, BitVec.zero_xor] at hones)

/-- Two frames with the same checksum have the same exact sum modulo 255. -/
theorem sum_mod_eq_of_csumGen_eq {pid : Byte} {data data' : List Byte} (h : csumGen pid data = csumGen pid data') :
    (data.map BitVec.toNat).sum % 255 = (data'.map BitVec.toNat).sum % 255 := by
  have hfold : csumFold pid data = csumFold pid data' := BitVec.not_inj.1 h
  have hmod := csumFold_toNat_mod pid data
  rw [hfold, csumFold_toNat_mod] at hmod
  omega

/-- One byte changed modulo 255 changes the checksum. -/
theorem csumGen_modify_ne {pid : Byte} {data : List Byte} {i : Nat} {f : Byte → Byte} (hi : i < data.length)
    (hf : ∀ b, (f b).toNat % 255 ≠ b.toNat % 255) : csumGen pid (data.modify i f) ≠ csumGen pid data := by
  intro h
  obtain ⟨l, b, r, hdata, -, hmodify⟩ := List.exists_of_modify f hi
  have hsum := sum_mod_eq_of_csumGen_eq h
  rw [hmodify, hdata] at hsum
  simp only [List.map_append, List.map_cons, List.sum_append, List.sum_cons] at hsum
  have := hf b
  omega

theorem bitMask_ne_zero_and_ne_ones {k : Nat} (hk : k < 8) :
    (↑(1 <<< k) : Byte) ≠ 0x00 ∧ (↑(1 <<< k) : Byte) ≠ 0xFF := by
  revert k; decide

/-! ### The obligations -/

/-- Settles O11: `CSUM.ADD` answers the carry-folded sum. -/
theorem carryIsFolded : Obligations.CarryIsFolded := by
  unfold Obligations.CarryIsFolded
  intro s x b
  refine ⟨csumAdd x b, rfl, csumAdd_toNat x b, csumAdd_toNat_mod x b, ?zero, ?ones⟩
  case zero => simpa [← BitVec.toNat_inj] using csumAdd_toNat_eq_zero_iff x b
  case ones => rintro rfl hx; exact csumAdd_ones hx

/-- Settles O12: the last byte is added to the fold, in which 0x00 and, once it is nonzero, 0xFF change nothing. -/
theorem checksumGenerated : Obligations.ChecksumGenerated := by
  unfold Obligations.ChecksumGenerated
  refine ⟨fun s pid data hlen => answerTyped_of_typed s (decide_eq_true hlen), fun pid data b =>
    ⟨rfl, ?concat, fun hfold => ?ones, fun hfold => ?zeroOrOnes⟩⟩
  case concat => rw [csumGen, csumGen, csumFold_concat, BitVec.not_not]
  case ones => exact congrArg (~~~·) hfold
  case zeroOrOnes =>
    have hones : csumAdd (csumFold pid data) 0xFF = csumFold pid data := csumAdd_ones hfold
    rw [csumGen, csumGen, csumFold_concat, csumFold_concat, csumAdd_zero, hones]

/-- Settles O13: the check is byte equality, so 0xFF is not the computed 0x00. -/
theorem checksumChecked : Obligations.ChecksumChecked := by
  unfold Obligations.ChecksumChecked
  refine ⟨fun s pid c data hlen => answerTyped_of_typed s (decide_eq_true hlen), fun pid data hgen => ?_⟩
  rw [csumCheck_eq_false_iff, hgen]
  decide

/-- Settles O14: the residue modulo 255 leaves only 0 and 255 open, and the sum is 0 only for the exact sum 0. -/
theorem checksumClosedForm : Obligations.ChecksumClosedForm := by
  unfold Obligations.ChecksumClosedForm
  intro pid data total
  have hmod : (csumFold pid data).toNat % 255 = total % 255 := csumFold_toNat_mod pid data
  have hzero : (csumFold pid data).toNat = 0 ↔ total = 0 := csumFold_toNat_eq_zero_iff pid data
  have hlt := (csumFold pid data).isLt
  rw [csumGen, BitVec.toNat_not]
  split <;> omega

/-- Settles O15: one bit is no multiple of 255, so its flip changes the sum modulo 255. -/
theorem singleBitFlipDetected : Obligations.SingleBitFlipDetected := by
  unfold Obligations.SingleBitFlipDetected
  intro pid c data k hpass hk
  obtain ⟨h0, h1⟩ := bitMask_ne_zero_and_ne_ones hk
  obtain rfl := csumCheck_eq_true_iff.1 hpass
  simp only [csumCheck_eq_false_iff]
  exact ⟨(xor_ne_self h0).symm, fun i hi => csumGen_modify_ne hi fun b => toNat_xor_mod_ne h0 h1⟩

end Sys2Proof.Machine
end

section
/-! The LIN agent's turn with what it reads, and the rows of the engine one by one: what each makes of the agent where it is
selected (42_lin_engine.md R233 to R243). Settles O29 to O33, O35 to O39 and O46. -/

namespace Sys2Proof.Machine

section Rows

variable {s : State} {b : Byte}

/-! ### What a turn reads -/

theorem raiseLin_eq (f : FaultRec) (s : State) : raiseLin f s = .next (linFaulted f [] s) := by simp [raiseLin, linFaulted]

theorem failLin_eq (p : Primitive) (s : State) :
    failLin p s = .next (linFaulted (.transportFailure .lin) [.failed p] s) := rfl

/-- A failed `LinRx` faults the agent, whatever it was read for (42_lin_engine.md R245). -/
theorem linTurn_of_fail {rest : List RxItem} (hl : s.lin.lst.reads = true) (hrx : s.env.linRx = .fail :: rest) :
    linTurn s = .next (linFaulted (.transportFailure .lin) [.failed .linRx] (linInput rest s)) := by
  have hfetch : linFetch s = .failed (linInput rest s) := by
    cases hlst : s.lin.lst with
    | scanBreak | scanSync | readPid | recvCmd => simp [linFetch, hlst, hrx, linInput]
    | respond | drop | faulted => simp [hlst, Lst.reads] at hl
  simp [linTurn, hfetch, failLin_eq]

/-- A row that a selection and a byte are decoded to, and that makes `l'` of the agent whatever the environment is: the turn with
that byte does so and consumes the byte, and a failed `LinRx` faults the agent. -/
theorem turns_of_row {sel : LinSel} {i : Instr} {l' : LinAgent} (hl : s.lin.lst.reads = true)
    (hsel : linSelect s.lin = .ok sel) (hi : decode (.linStep sel (some b)) = .ok i)
    (hexec : ∀ e, exec i { s with env := e } = .next { s with env := e, lin := l' }) :
    decode (.linStep sel (some b)) = .ok i ∧ exec i s = .next { s with lin := l' } ∧
    (∀ rest, s.env.linRx = .byte b :: rest → linTurn s = .next { linInput rest s with lin := l' }) ∧
    (∀ rest, s.env.linRx = .fail :: rest →
      linTurn s = .next (linFaulted (.transportFailure .lin) [.failed .linRx] (linInput rest s))) :=
  ⟨hi, hexec s.env, fun _ hrx => (linTurn_of_byte hl hrx hsel hi).trans (hexec _), fun _ hrx => linTurn_of_fail hl hrx⟩

/-! ### The scanner's rows -/

theorem execEngBreakHit_selected (hl : s.lin.lst = .scanBreak) :
    execEngBreakHit 0x00 s = .next (gotoLst .scanSync s) := if_pos ⟨hl, rfl⟩

/-- `goto` the state that the engine is in. -/
theorem gotoLst_self {x : Lst} (hl : s.lin.lst = x) : gotoLst x s = s := by subst hl; rfl

/-- The engine is in SCAN_BREAK already, so only the record is left of the drop. -/
theorem execEngBreakSkip_selected (hl : s.lin.lst = .scanBreak) (hb : b ≠ 0x00) :
    execEngBreakSkip b s = .next (recordLin (.diag (.invalidBreak b)) s) :=
  calc execEngBreakSkip b s
      _ = .next (dropWith (.invalidBreak b) s) := if_pos ⟨hl, hb⟩
      _ = .next (recordLin (.diag (.invalidBreak b)) s) := by rw [dropWith, gotoLst_self (by exact hl)]

theorem execEngSyncOk_selected (hl : s.lin.lst = .scanSync) :
    execEngSyncOk 0x55 s = .next (gotoLst .readPid s) := if_pos ⟨hl, rfl⟩

theorem execEngSyncBad_selected (hl : s.lin.lst = .scanSync) (hb : b ≠ 0x55) :
    execEngSyncBad b s = .next (dropWith (.invalidSync b) s) := if_pos ⟨hl, hb⟩

theorem execEngPidBad_selected (hl : s.lin.lst = .readPid) (hb : pidValidate b = none) :
    execEngPidBad b s = .next (dropWith (.invalidPid b) s) := if_pos ⟨hl, hb⟩

theorem execEngDrop_selected {pid : Byte} (hl : s.lin.lst = .drop) (hpid : s.lin.pid = some pid) :
    execEngDrop s = .next (dropWith (.unknownId (pidId pid)) s) := by
  simp [execEngDrop, hl, hpid]

/-! ### RESPOND -/

/-- The response elements are emptied and the frame is recorded as sent (42_lin_engine.md R239). -/
def sendResponse (frame : List Byte) (l : LinAgent) : LinAgent :=
  { l with rspLen := none, rspBuf := Vector.replicate 8 none, lst := .scanBreak, trace := l.trace ++ [.tx frame] }

theorem execEngRespond_sent {frame : List Byte} {e : Env} (hl : s.lin.lst = .respond) (hf : responseFrame s.lin = .ok frame)
    (hd : drawLinTx s.env = (true, e)) :
    execEngRespond s = .next { s with env := e, lin := sendResponse frame s.lin } := by
  simp [execEngRespond, hl, hf, hd, sendResponse]

theorem execEngRespond_failed {frame : List Byte} {e : Env} (hl : s.lin.lst = .respond)
    (hf : responseFrame s.lin = .ok frame) (hd : drawLinTx s.env = (false, e)) :
    execEngRespond s = .next (linFaulted (.transportFailure .lin) [.failed .linTx] { s with env := e }) := by
  simp [execEngRespond, hl, hf, hd, failLin_eq]

/-! ### RECV_CMD -/

theorem execEngCmdData_selected {cnt : Nat} (hl : s.lin.lst = .recvCmd) (hp : cmdPhase s.lin = .ok (.data cnt))
    (hn : cnt < 8) : execEngCmdData b s = .next { s with
      lin := { s.lin with cmdBuf := s.lin.cmdBuf.setIfInBounds cnt (some b), cmdCnt := some (cnt + 1) } } := by
  simp [execEngCmdData, hl, hp, Config.maxData, hn]

theorem execEngCmdCkOk_selected {pid : Byte} {d : List Byte} (hl : s.lin.lst = .recvCmd)
    (hp : cmdPhase s.lin = .ok (.check pid d)) :
    execEngCmdCkOk (csumGen pid d) s = .next (endCommand (recordLin (.handleCommand (pidId pid) d) s)) := by
  have hck : csumCheck pid d (csumGen pid d) = true := csumCheck_eq_true_iff.2 rfl
  simp [execEngCmdCkOk, hl, hp, hck]

theorem execEngCmdCkBad_selected {pid : Byte} {d : List Byte} (hl : s.lin.lst = .recvCmd)
    (hp : cmdPhase s.lin = .ok (.check pid d)) (hb : b ≠ csumGen pid d) :
    execEngCmdCkBad b s = .next (endCommand (recordLin (.diag (.linChecksum (pidId pid) (csumGen pid d) b)) s)) := by
  have hck : csumCheck pid d b = false := csumCheck_eq_false_iff.2 hb.symm
  simp [execEngCmdCkBad, hl, hp, hck]

end Rows

/-! ### The obligations -/

/-- Settles O29: the row of the break byte. -/
theorem breakIsFound : Obligations.BreakIsFound := by
  unfold Obligations.BreakIsFound
  intro s hl
  exact turns_of_row (by simp [hl, Lst.reads]) (by simp [linSelect, hl]) rfl fun e =>
    execEngBreakHit_selected (s := { s with env := e }) hl

/-- Settles O30: the row of every other byte. -/
theorem noiseIsSkipped : Obligations.NoiseIsSkipped := by
  unfold Obligations.NoiseIsSkipped
  intro s b hl hb
  exact turns_of_row (by simp [hl, Lst.reads]) (by simp [linSelect, hl]) (if_neg hb) fun e =>
    execEngBreakSkip_selected (s := { s with env := e }) hl hb

/-- Settles O31: the row of the sync byte. -/
theorem syncIsAccepted : Obligations.SyncIsAccepted := by
  unfold Obligations.SyncIsAccepted
  intro s hl
  exact turns_of_row (by simp [hl, Lst.reads]) (by simp [linSelect, hl]) rfl fun e =>
    execEngSyncOk_selected (s := { s with env := e }) hl

/-- Settles O32: the row of every other byte. -/
theorem badSyncDrops : Obligations.BadSyncDrops := by
  unfold Obligations.BadSyncDrops
  intro s b hl hb
  exact turns_of_row (by simp [hl, Lst.reads]) (by simp [linSelect, hl]) (if_neg hb) fun e =>
    execEngSyncBad_selected (s := { s with env := e }) hl hb

/-- Settles O33: the row of a byte that is no PID. -/
theorem badPidDrops : Obligations.BadPidDrops := by
  unfold Obligations.BadPidDrops
  intro s b hl hb
  exact turns_of_row (by simp [hl, Lst.reads]) (by simp [linSelect, hl]) (if_neg (by simp [hb])) fun e =>
    execEngPidBad_selected (s := { s with env := e }) hl hb

/-- Settles O39: DROP reads no byte, so its row is the turn. -/
theorem unknownIdIsDropped : Obligations.UnknownIdIsDropped := by
  unfold Obligations.UnknownIdIsDropped
  intro s pid hl hpid
  exact ⟨rfl, execEngDrop_selected hl hpid, linTurn_drop hl⟩

/-- Settles O35: the frame is read from the response elements, and the write completes or fails. -/
theorem responseIsSent : Obligations.ResponseIsSent := by
  unfold Obligations.ResponseIsSent
  intro s pid d hl hpid hmax hlen hbuf
  have hframe : responseFrame s.lin = .ok (d ++ [csumGen pid d]) := responseFrame_ok hlen (readPrefix_of_take hmax hbuf) hpid
  exact ⟨fun e hd => execEngRespond_sent hl hframe hd, fun e hd => execEngRespond_failed hl hframe hd⟩

/-- Settles O36: a data byte is awaited at `CMD_CNT`, within the buffer. -/
theorem commandDataReceived : Obligations.CommandDataReceived := by
  unfold Obligations.CommandDataReceived
  intro s b cnt len hl hcnt hlen hlt hmax
  exact execEngCmdData_selected hl (cmdPhase_data hcnt hlen hlt) (by omega)

/-- Settles O37: the frame's checksum is awaited, and comes. -/
theorem goodCommandIsHandled : Obligations.GoodCommandIsHandled := by
  unfold Obligations.GoodCommandIsHandled
  intro s pid d hl hpid hmax hlen hcnt hbuf
  have hphase : cmdPhase s.lin = .ok (.check pid d) := cmdPhase_check hcnt hlen (readPrefix_of_take hmax hbuf) hpid
  exact turns_of_row (by simp [hl, Lst.reads]) (linSelect_recvCheck hl hphase) (if_pos rfl) fun e =>
    execEngCmdCkOk_selected (s := { s with env := e }) hl hphase

/-- Settles O38: the frame's checksum is awaited, and another byte comes. -/
theorem badCommandIsDiscarded : Obligations.BadCommandIsDiscarded := by
  unfold Obligations.BadCommandIsDiscarded
  intro s pid b d hl hpid hmax hlen hcnt hbuf hb
  have hphase : cmdPhase s.lin = .ok (.check pid d) := cmdPhase_check hcnt hlen (readPrefix_of_take hmax hbuf) hpid
  exact turns_of_row (by simp [hl, Lst.reads]) (linSelect_recvCheck hl hphase) (if_neg hb) fun e =>
    execEngCmdCkBad_selected (s := { s with env := e }) hl hphase hb

/-- Settles O46: the reading states share the failed `LinRx`; RESPOND alone writes; FAULTED selects no row. -/
theorem linFailureFaults : Obligations.LinFailureFaults := by
  unfold Obligations.LinFailureFaults
  intro s
  refine ⟨fun rest hl hrx => linTurn_of_fail ?reads hrx, fun frame e hl hf hd => ?write,
    fun hl => linTurn_of_hold (linFetch_faulted hl)⟩
  case reads =>
    simp only [List.mem_cons, List.not_mem_nil, or_false] at hl
    obtain hl | hl | hl | hl := hl <;> rw [hl] <;> rfl
  case write => exact (linTurn_respond hl).trans (execEngRespond_failed hl hf hd)

end Sys2Proof.Machine
end

section
/-! Whole LIN frames: the header, how the handler's answers dispatch it, and what follows it on the bus (42_lin_engine.md R237,
R244, R246, R247). Settles O34 and O40 to O43. -/

namespace Sys2Proof.Machine

section Frames

variable {s : State}

/-! ### The handler's answers to a valid PID (42_lin_engine.md R231, R237) -/

theorem execEngPidOk_answered_beyond {id : Fid} {data : List Byte} {e : Env} (hl : s.lin.lst = .readPid)
    (hd : drawBuild id s.env = (some data, e)) (hn : 8 < data.length) :
    execEngPidOk (pidEncode id) s = .next (linFaulted (.handlerContract id) [] { s with env := e }) := by
  simp [execEngPidOk, dispatchPid, hl, hd, Config.maxData, hn, raiseLin_eq]

theorem execEngPidOk_awaited {id : Fid} {k : Nat} {e₁ e : Env} (hl : s.lin.lst = .readPid)
    (hd : drawBuild id s.env = (none, e₁)) (hx : drawExpect id e₁ = (some k, e)) (hn : k ≤ 8) :
    execEngPidOk (pidEncode id) s = .next { s with env := e, lin := awaitCommand (pidEncode id) k s.lin } := by
  simp [execEngPidOk, dispatchPid, hl, hd, hx, Config.maxData, Nat.not_lt.2 hn]

theorem execEngPidOk_awaited_beyond {id : Fid} {k : Nat} {e₁ e : Env} (hl : s.lin.lst = .readPid)
    (hd : drawBuild id s.env = (none, e₁)) (hx : drawExpect id e₁ = (some k, e)) (hn : 8 < k) :
    execEngPidOk (pidEncode id) s = .next (linFaulted (.handlerContract id) [] { s with env := e }) := by
  simp [execEngPidOk, dispatchPid, hl, hd, hx, Config.maxData, hn, raiseLin_eq]

theorem execEngPidOk_unknown {id : Fid} {e₁ e : Env} (hl : s.lin.lst = .readPid)
    (hd : drawBuild id s.env = (none, e₁)) (hx : drawExpect id e₁ = (none, e)) :
    execEngPidOk (pidEncode id) s =
      .next { s with env := e, lin := { s.lin with pid := some (pidEncode id), lst := .drop } } := by
  simp [execEngPidOk, dispatchPid, hl, hd, hx]

@[simp] theorem pidId_pidEncode (id : Fid) : pidId (pidEncode id) = id := pidId_pidByte ..

/-! ### Several turns -/

@[simp] theorem linTurns_zero (s : State) : linTurns 0 s = .next s := rfl

/-- One turn and then the others. -/
theorem linTurns_succ {n : Nat} {t : State} (h : linTurn s = .next t) : linTurns (n + 1) s = linTurns n t := by
  simp [linTurns, h]

/-- A byte that is there when its turn comes acts as one that arrives then. -/
theorem linTurn_of_read {b : Byte} {rest : List RxItem} (hl : s.lin.lst.reads = true) (hrx : s.env.linRx = .byte b :: rest) :
    linTurn s = linTransition b (linInput rest s) := by
  obtain ⟨hbreak, hsync, hpid, -⟩ := transitionIsSelected s b rest hrx
  cases hlst : s.lin.lst with
  | scanBreak => rw [hbreak hlst, apply_ite (exec · _)]; simp [linTransition, linInput, hlst]; rfl
  | scanSync => rw [hsync hlst, apply_ite (exec · _)]; simp [linTransition, linInput, hlst]; rfl
  | readPid => rw [hpid hlst, apply_ite (exec · _)]; simp [linTransition, linInput, hlst]; rfl
  | recvCmd =>
    cases hp : cmdPhase s.lin with
    | error st => simp [linTurn, linFetch, linSelect, linTransition, linInput, hlst, hrx, hp]
    | ok phase =>
      cases phase with
      | data cnt =>
        rw [linTurn_of_byte hl hrx (linSelect_recvData hlst hp) rfl]
        simp [linTransition, linInput, hlst, hp, exec]
      | check pid d =>
        rw [linTurn_of_byte hl hrx (linSelect_recvCheck hlst hp) (apply_ite ..).symm, apply_ite (exec · _)]
        simp [linTransition, linInput, hlst, hp, exec, csumCheck_eq_true_iff, eq_comm (a := b)]
  | respond | drop | faulted => simp [hlst, Lst.reads] at hl

/-- A stream of which nothing is read. -/
theorem linInput_self {rest : List RxItem} (h : s.env.linRx = rest) : linInput rest s = s := by subst h; rfl

/-! ### The parts of a frame (42_lin_engine.md R244) -/

theorem linTurn_break {rest : List RxItem} (hl : s.lin.lst = .scanBreak) (hrx : s.env.linRx = .byte 0x00 :: rest) :
    linTurn s = .next (gotoLst .scanSync (linInput rest s)) :=
  (linTurn_of_read (by rw [hl]; rfl) hrx).trans (linTransition_break hl)

theorem linTurn_sync {rest : List RxItem} (hl : s.lin.lst = .scanSync) (hrx : s.env.linRx = .byte 0x55 :: rest) :
    linTurn s = .next (gotoLst .readPid (linInput rest s)) :=
  (linTurn_of_read (by rw [hl]; rfl) hrx).trans (linTransition_sync hl)

/-- After the break and the sync byte the engine awaits the PID. -/
theorem linTurns_header {n : Nat} {rest : List RxItem} (hl : s.lin.lst = .scanBreak)
    (hrx : s.env.linRx = .byte 0x00 :: .byte 0x55 :: rest) :
    linTurns (n + 2) s = linTurns n (gotoLst .readPid (linInput rest s)) := by
  rw [linTurns_succ (linTurn_break hl hrx), linTurns_succ (linTurn_sync rfl rfl)]; rfl

/-- The turn that reads a PID. -/
theorem linTurn_pid {id : Fid} {rest : List RxItem} (hl : s.lin.lst = .readPid)
    (hrx : s.env.linRx = .byte (pidEncode id) :: rest) : linTurn s = execEngPidOk (pidEncode id) (linInput rest s) :=
  (linTurn_of_read (by rw [hl]; rfl) hrx).trans (linTransition_pid hl (by simp))

/-- A header whose id the handler answers (42_lin_engine.md R237). -/
theorem linTurns_answered {n : Nat} {id : Fid} {data : List Byte} {rest : List RxItem} {bs : List (Option (List Byte))}
    (hl : s.lin.lst = .scanBreak) (hrx : s.env.linRx = .byte 0x00 :: .byte 0x55 :: .byte (pidEncode id) :: rest)
    (hbuild : s.env.build = some data :: bs) (hmax : data.length ≤ 8) :
    linTurns (n + 3) s = linTurns n { s with
      env := { s.env with linRx := rest, build := bs }, lin := takeResponse (pidEncode id) data s.lin } := by
  rw [linTurns_header hl hrx]
  refine linTurns_succ ((linTurn_pid rfl rfl).trans ?_)
  exact execEngPidOk_answered rfl (drawBuild_listed id (some data) bs { s.env with linRx := rest } hbuild) hmax

/-- A header whose id the handler does not answer, but awaits a command for. -/
theorem linTurns_awaited {n : Nat} {id : Fid} {k : Nat} {rest : List RxItem} {bs : List (Option (List Byte))}
    {ns : List (Option Nat)} (hl : s.lin.lst = .scanBreak)
    (hrx : s.env.linRx = .byte 0x00 :: .byte 0x55 :: .byte (pidEncode id) :: rest)
    (hbuild : s.env.build = none :: bs) (hexpect : s.env.expect = some k :: ns) (hmax : k ≤ 8) :
    linTurns (n + 3) s = linTurns n { s with
      env := { s.env with linRx := rest, build := bs, expect := ns }, lin := awaitCommand (pidEncode id) k s.lin } := by
  rw [linTurns_header hl hrx]
  refine linTurns_succ ((linTurn_pid rfl rfl).trans ?_)
  exact execEngPidOk_awaited rfl (drawBuild_listed id none bs { s.env with linRx := rest } hbuild)
    (drawExpect_listed id (some k) ns { s.env with linRx := rest, build := bs } hexpect) hmax

/-- A header whose id the handler knows nothing of. -/
theorem linTurns_unknown {n : Nat} {id : Fid} {rest : List RxItem} {bs : List (Option (List Byte))} {ns : List (Option Nat)}
    (hl : s.lin.lst = .scanBreak) (hrx : s.env.linRx = .byte 0x00 :: .byte 0x55 :: .byte (pidEncode id) :: rest)
    (hbuild : s.env.build = none :: bs) (hexpect : s.env.expect = none :: ns) :
    linTurns (n + 3) s = linTurns n { s with
      env := { s.env with linRx := rest, build := bs, expect := ns }
      lin := { s.lin with pid := some (pidEncode id), lst := .drop } } := by
  rw [linTurns_header hl hrx]
  refine linTurns_succ ((linTurn_pid rfl rfl).trans ?_)
  exact execEngPidOk_unknown rfl (drawBuild_listed id none bs { s.env with linRx := rest } hbuild)
    (drawExpect_listed id none ns { s.env with linRx := rest, build := bs } hexpect)

/-! ### The bytes that are dropped (42_lin_engine.md R234, R236, R238) -/

theorem linTurn_breakSkip {b : Byte} {rest : List RxItem} (hl : s.lin.lst = .scanBreak) (hb : b ≠ 0x00)
    (hrx : s.env.linRx = .byte b :: rest) : linTurn s = .next (recordLin (.diag (.invalidBreak b)) (linInput rest s)) := by
  obtain ⟨-, -, hturn, -⟩ := noiseIsSkipped s b hl hb
  exact hturn rest hrx

theorem linTurn_syncBad {b : Byte} {rest : List RxItem} (hl : s.lin.lst = .scanSync) (hb : b ≠ 0x55)
    (hrx : s.env.linRx = .byte b :: rest) : linTurn s = .next (dropWith (.invalidSync b) (linInput rest s)) := by
  obtain ⟨-, -, hturn, -⟩ := badSyncDrops s b hl hb
  exact hturn rest hrx

theorem linTurn_pidBad {b : Byte} {rest : List RxItem} (hl : s.lin.lst = .readPid) (hb : pidValidate b = none)
    (hrx : s.env.linRx = .byte b :: rest) : linTurn s = .next (dropWith (.invalidPid b) (linInput rest s)) := by
  obtain ⟨-, -, hturn, -⟩ := badPidDrops s b hl hb
  exact hturn rest hrx

/-! ### The data of a command (20_memory.md R73, 42_lin_engine.md R240) -/

/-- Data bytes of a command, written from `CMD_CNT` on. -/
def receiveData (cnt : Nat) (d : List Byte) (l : LinAgent) : LinAgent :=
  { l with cmdBuf := writeBytes l.cmdBuf cnt d, cmdCnt := some (cnt + d.length) }

theorem receiveData_nil {cnt : Nat} {l : LinAgent} (h : l.cmdCnt = some cnt) : receiveData cnt [] l = l := by
  simp [receiveData, writeBytes, ← h]

theorem receiveData_cons (cnt : Nat) (b : Byte) (d : List Byte) (l : LinAgent) :
    receiveData cnt (b :: d) l = receiveData (cnt + 1) d (receiveData cnt [b] l) := by
  simp [receiveData, writeBytes, Nat.add_assoc, Nat.add_comm 1]

/-- As many turns as there are data bytes to come take them all. -/
theorem linTurns_receiveData {n cnt : Nat} {d : List Byte} {rest : List RxItem} (hl : s.lin.lst = .recvCmd)
    (hcnt : s.lin.cmdCnt = some cnt) (hlen : s.lin.cmdLen = some (cnt + d.length)) (hmax : cnt + d.length ≤ 8)
    (hrx : s.env.linRx = d.map .byte ++ rest) :
    linTurns (d.length + n) s = linTurns n { linInput rest s with lin := receiveData cnt d s.lin } := by
  induction d generalizing s cnt with
  | nil =>
    rw [receiveData_nil hcnt, List.length_nil, Nat.zero_add]
    exact congrArg (linTurns n) (linInput_self hrx).symm
  | cons b d ih =>
    simp only [List.length_cons] at hlen hmax
    let t : State := { linInput (d.map .byte ++ rest) s with lin := receiveData cnt [b] s.lin }
    have hphase : cmdPhase s.lin = .ok (.data cnt) := cmdPhase_data hcnt hlen (by omega)
    have hturn : linTurn s = .next t := (linTurn_of_read (by rw [hl]; rfl) hrx).trans (linTransition_data hl hphase (by omega))
    have hrest := ih (s := t) hl rfl (hlen.trans (by simp [Nat.add_comm 1, Nat.add_assoc])) (by simp; omega) rfl
    calc linTurns ((b :: d).length + n) s
        _ = linTurns (d.length + n + 1) s := by rw [List.length_cons, Nat.add_right_comm]
        _ = linTurns (d.length + n) t := linTurns_succ hturn
        _ = linTurns n { linInput rest s with lin := receiveData cnt (b :: d) s.lin } := by
          rw [hrest, receiveData_cons]; rfl

end Frames

/-! ### The obligations -/

/-- Settles O34: the five branches of the handler's answers. -/
theorem pidIsDispatched : Obligations.PidIsDispatched := by
  unfold Obligations.PidIsDispatched
  intro s b fid hl hb
  obtain rfl := pidValidate_eq_some_iff.1 hb
  refine ⟨fun data e hd => ⟨fun hn => ?answered, fun hn => execEngPidOk_answered_beyond hl hd hn⟩, fun e₁ e hd =>
    ⟨fun k hx => ⟨fun hn => execEngPidOk_awaited hl hd hx hn, fun hn => execEngPidOk_awaited_beyond hl hd hx hn⟩,
      fun hx => execEngPidOk_unknown hl hd hx⟩⟩
  case answered =>
    exact ⟨writeBytes s.lin.rspBuf 0 data, by simp [writeBytes_toList s.lin.rspBuf 0 data (by omega)],
      execEngPidOk_answered hl hd hn⟩

/-- Settles O40: the header, the PID's turn, and the one write. -/
theorem responseFrameCycle : Obligations.ResponseFrameCycle := by
  unfold Obligations.ResponseFrameCycle
  intro s pid data rest bs tx hl hpid hmax hrx hbuild htx
  obtain ⟨id, hid⟩ := Option.isSome_iff_exists.1 hpid
  obtain rfl := pidValidate_eq_some_iff.1 hid
  let u : State := { s with
    env := { s.env with linRx := rest, build := bs }, lin := takeResponse (pidEncode id) data s.lin }
  have hframe : responseFrame u.lin = .ok (data ++ [csumGen (pidEncode id) data]) :=
    responseFrame_ok rfl (readPrefix_writeBytes _ _ _ hmax) rfl
  have hsent : linTurn u = .next { u with
      env := { u.env with linTx := tx }, lin := sendResponse (data ++ [csumGen (pidEncode id) data]) u.lin } :=
    (linTurn_respond rfl).trans (execEngRespond_sent rfl hframe (drawLinTx_listed true tx u.env htx))
  rw [linTurns_answered hl hrx hbuild hmax, linTurns_succ hsent]
  simp [u, sendResponse, takeResponse, hl]

/-- Settles O41: the header, as many turns as there are data bytes, and the checksum's turn. -/
theorem commandFrameCycle : Obligations.CommandFrameCycle := by
  unfold Obligations.CommandFrameCycle
  intro s pid c fid d rest bs ns hl hpid hmax hrx hbuild hexpect
  obtain rfl := pidValidate_eq_some_iff.1 hpid
  let u : State := { s with
    env := { s.env with linRx := d.map .byte ++ .byte c :: rest, build := bs, expect := ns }
    lin := awaitCommand (pidEncode fid) d.length s.lin }
  let v : State := { linInput (.byte c :: rest) u with lin := receiveData 0 d u.lin }
  have hdata : linTurns (d.length + 1) u = linTurns 1 v :=
    linTurns_receiveData rfl rfl (by simp [u]) (by omega) rfl
  have hphase : cmdPhase v.lin = .ok (.check (pidEncode fid) d) :=
    cmdPhase_check (by simp [v, receiveData]) rfl (readPrefix_writeBytes _ _ _ hmax) rfl
  have hchecked := (linTurn_of_read (s := v) rfl rfl).trans (linTransition_checksum rfl hphase)
  calc linTurns (d.length + 4) s
      _ = linTurns (d.length + 1) u := linTurns_awaited hl hrx hbuild hexpect hmax
      _ = linTurns 1 v := hdata
      _ = .next _ := linTurns_succ hchecked
      _ = .next _ := by simp [endCommand, recordLin, linInput, v, u, receiveData, awaitCommand, hl]

/-- Settles O42: the header, and DROP's turn, which reads nothing. -/
theorem unknownIdConsumesNothing : Obligations.UnknownIdConsumesNothing := by
  unfold Obligations.UnknownIdConsumesNothing
  intro s pid fid rest bs ns hl hpid hrx hbuild hexpect
  obtain rfl := pidValidate_eq_some_iff.1 hpid
  rw [linTurns_unknown hl hrx hbuild hexpect]
  rw [linTurns_succ ((linTurn_drop rfl).trans (execEngDrop_selected rfl rfl)), pidId_pidEncode]
  simp [dropWith, gotoLst, recordLin, hl]

/-- Settles O43: the byte that fails a test is off the stream when the engine scans again. -/
theorem failedByteIsGone : Obligations.FailedByteIsGone := by
  unfold Obligations.FailedByteIsGone
  intro s rest hl
  refine ⟨fun pid hpid hrx => ?sync, fun hrx => ?pid⟩
  case sync =>
    have hne : pid ≠ 0x00 := by rintro rfl; exact absurd hpid (by decide)
    rw [linTurns_succ (linTurn_break hl hrx), linTurns_succ (linTurn_syncBad rfl (by decide) rfl),
      linTurns_succ (linTurn_breakSkip rfl (by decide) rfl), linTurns_succ (linTurn_breakSkip rfl hne rfl)]
    simp [recordLin, dropWith, gotoLst, linInput, hl]
  case pid =>
    rw [linTurns_header hl hrx, linTurns_succ (linTurn_pidBad rfl (by decide) rfl),
      linTurns_succ (linTurn_breakSkip rfl (by decide) rfl)]
    simp [recordLin, dropWith, gotoLst, linInput, hl]

end Sys2Proof.Machine
end

section
/-! What a step adds to the LIN trace, and when a transmission or the handler's third call is due (42_lin_engine.md R251). Settles
O60. -/

namespace Sys2Proof.Machine

section Due

variable {read : Byte → Prop} {s t : State} {l l' : LinAgent} {b : Byte}

/-! ### The events that are due -/

/-- When the agent may record an event in a step whose byte is among `read`: a transmission in RESPOND, of its frame; the handler's
third call in RECV_CMD, when the byte is the checksum of the data (42_lin_engine.md R239, R241). -/
def LinAgent.Due (l : LinAgent) (read : Byte → Prop) : LinEvent → Prop
  | .tx frame => l.lst = .respond ∧ responseFrame l = .ok frame
  | .handleCommand fid d =>
    l.lst = .recvCmd ∧ ∃ pid, cmdPhase l = .ok (.check pid d) ∧ fid = pidId pid ∧ read (csumGen pid d)
  | .diag _ => True
  | .failed _ => True

/-- The trace gains nothing, or one event that is due. -/
def LinAgent.AddsDue (l : LinAgent) (read : Byte → Prop) (l' : LinAgent) : Prop :=
  l'.trace = l.trace ∨ ∃ e, l.Due read e ∧ l'.trace = l.trace ++ [e]

/-- Where no checksum is awaited, a step of the agent records what is due. -/
theorem LinAgent.Step.addsDue (hs : l.Step l') (hc : l.lst = .recvCmd → ∀ pid d, cmdPhase l ≠ .ok (.check pid d)) :
    l.AddsDue read l' := by
  cases hs with
  | hold | breakHit | syncOk | answered | awaited | unknown | received | contract | blocked => exact .inl rfl
  | dropped d _ => exact .inr ⟨.diag d, trivial, rfl⟩
  | failed p _ => exact .inr ⟨.failed p, trivial, rfl⟩
  | responded hl hf => exact .inr ⟨.tx _, ⟨hl, hf⟩, rfl⟩
  | ended e hl hp => exact absurd hp (hc hl _ _)

/-! ### The LIN agent's moves -/

/-- Where the checksum is awaited, the byte decides what is recorded (42_lin_engine.md R241, R242). -/
theorem linTransition_addsDue (hb : read b) (h : linTransition b s = .next t) : s.lin.AddsDue read t.lin := by
  by_cases hc : s.lin.lst = .recvCmd ∧ ∃ pid d, cmdPhase s.lin = .ok (.check pid d)
  · obtain ⟨hl, pid, d, hp⟩ := hc
    rw [linTransition_checksum hl hp] at h
    cases h
    refine .inr ⟨_, ?_, rfl⟩
    split
    · next heq => exact ⟨hl, pid, hp, rfl, heq ▸ hb⟩
    · trivial
  · exact (linTransition_step h).addsDue fun hl pid d hp => hc ⟨hl, pid, d, hp⟩

/-- The agent's own turn reads what the transport holds first. -/
theorem linTurn_addsDue (hread : ∀ b rest, s.env.linRx = .byte b :: rest → read b) (h : linTurn s = .next t) :
    s.lin.AddsDue read t.lin := by
  cases hl : s.lin.lst with
  | scanBreak | scanSync | readPid | recvCmd =>
    have hreads : s.lin.lst.reads = true := by rw [hl]; rfl
    cases hrx : s.env.linRx with
    | nil =>
      rw [linTurn_of_hold (linFetch_of_linHolds (linHolds_iff.2 ⟨hreads, hrx⟩))] at h
      cases h; exact .inl rfl
    | cons i rest =>
      cases i with
      | byte b =>
        rw [linTurn_of_read hreads hrx] at h
        exact linTransition_addsDue (s := linInput rest s) (hread b rest hrx) h
      | fail =>
        rw [linTurn_of_fail hreads hrx] at h
        cases h; exact .inr ⟨.failed .linRx, trivial, rfl⟩
  | respond =>
    rw [linTurn_respond hl] at h
    exact (execEngRespond_step h).addsDue (by simp [hl])
  | drop =>
    rw [linTurn_drop hl] at h
    exact (execEngDrop_step h).addsDue (by simp [hl])
  | faulted =>
    rw [linTurn_of_hold (linFetch_faulted hl)] at h
    cases h; exact .inl rfl

/-- An arriving byte that is decoded as a field of the frame is delivered as it is (30_encoding.md R113). -/
theorem exec_of_decodeLinByte {f : LinField} {i : Instr} (s : State) (h : decodeLinByte f b = .ok i) :
    exec i s = deliver b s := by
  cases f with
  | pid =>
    simp only [decodeLinByte] at h
    split at h
    · cases h; exact congrArg (deliver · s) (pidByte_pidBits_pidId b)
    · cases h
  | data | checksum => cases h; rfl
  | _ => -- the break and the sync, each of one fixed byte
    simp only [decodeLinByte] at h
    split at h
    · next hb => cases h; rw [hb]; rfl
    · cases h

theorem linByteTurn_eq_deliver (b : Byte) (s : State) : linByteTurn b s = deliver b s := by
  unfold linByteTurn linSymbol
  cases linField s with
  | none => rfl
  | some f =>
    dsimp only
    cases hd : decode (.linByte f b) with
    | ok i => exact exec_of_decodeLinByte s hd
    | error _ => rfl

theorem linByteTurn_addsDue (hb : read b) (h : linByteTurn b s = .next t) : s.lin.AddsDue read t.lin := by
  rw [linByteTurn_eq_deliver] at h
  unfold deliver at h
  split at h
  · exact linTransition_addsDue hb h
  · cases h; exact .inl rfl

/-! ### The step -/

/-- A host request leaves the LIN agent alone (30_encoding.md R110). -/
theorem hostTurn_lin {sel : Byte} {args : List Byte} (h : hostTurn sel args s = .next t) : t.lin = s.lin := by
  unfold hostTurn at h
  split at h
  · next i hd =>
    obtain ⟨-, hi⟩ := decodedHasItsTypes _ i hd
    obtain ⟨u, hu, hlin, -⟩ := hostRowsFrame i s hi
    cases hu.symm.trans h
    exact hlin
  all_goals cases h; rfl

/-- The OW agent's turn leaves the LIN agent alone (20_memory.md R82). -/
theorem owTurn_lin (h : owTurn s = .next t) : t.lin = s.lin :=
  (owStep_frame ((owTurn_eq_owStep s).symm.trans h)).1

theorem runMove_addsDue {m : Move} (hm : m ≠ .resetBlock) (hread : ∀ b rest, s.env.linRx = .byte b :: rest → read b)
    (hbyte : ∀ b, m = .linByte b → read b) (h : runMove m s = .next t) : s.lin.AddsDue read t.lin := by
  cases m with
  | lin => exact linTurn_addsDue hread h
  | linByte b => exact linByteTurn_addsDue (hbyte b rfl) h
  | host => exact .inl (by rw [hostTurn_lin h])
  | ow => exact .inl (by rw [owTurn_lin h])
  | owByte | owFail => exact .inl (by rw [(deliverOw_frame h).1])
  | linFail | restartLin | restartOw => cases h; exact .inl rfl
  | resetBlock => exact absurd rfl hm

theorem step_of_no_moves (h : s.env.moves = []) : step s = freeTurn s := by
  simp [step, takeMove, h]

/-- A free turn is one of the two agents' (20_memory.md R82). -/
theorem freeTurn_addsDue (hread : ∀ b rest, s.env.linRx = .byte b :: rest → read b) (h : freeTurn s = .next t) :
    s.lin.AddsDue read t.lin := by
  let u : State := { s with env := { s.env with turnDraws := s.env.turnDraws + 1 } }
  have hu : (if Config.linMoves s.env.turnDraws then linTurn u else owTurn u) = .next t := h
  split at hu
  · exact linTurn_addsDue (s := u) hread hu
  · exact .inl (by rw [owTurn_lin hu])

/-- The bytes that a step may read: the first that the transport holds, or the one that arrives. -/
def State.Readable (s : State) (b : Byte) : Prop :=
  (∃ rest, s.env.linRx = .byte b :: rest) ∨ s.env.moves.head? = some (.linByte b)

/-- A step adds nothing to the LIN trace, or one event that is due, but for the block's reset, which empties it. -/
theorem step_addsDue (h : step s = .next t) : s.lin.AddsDue s.Readable t.lin ∨ t.lin.trace = [] := by
  have hread : ∀ b rest, s.env.linRx = .byte b :: rest → s.Readable b := fun b rest hrx => .inl ⟨rest, hrx⟩
  cases hms : s.env.moves with
  | nil =>
    rw [step_of_no_moves hms] at h
    exact .inl (freeTurn_addsDue hread h)
  | cons m ms =>
    rw [step_of_moves hms] at h
    by_cases hm : m = .resetBlock
    · subst hm
      cases h
      exact .inr rfl
    · have hbyte : ∀ b, m = .linByte b → s.Readable b := by
        rintro b rfl
        exact .inr (by rw [hms]; rfl)
      exact .inl (runMove_addsDue (s := movesLeft ms s) hm hread hbyte h)

/-- What is added to a trace is nothing, or one event that is due. -/
theorem added_of_addsDue {es : List LinEvent} (h : l.AddsDue read l' ∨ l'.trace = []) (hes : l'.trace = l.trace ++ es) :
    es = [] ∨ ∃ e, l.Due read e ∧ es = [e] := by
  obtain (hsame | ⟨e, hdue, hone⟩) | hreset := h
  · exact .inl (by simpa [hsame] using hes)
  · exact .inr ⟨e, hdue, (List.append_cancel_left (hone.symm.trans hes)).symm⟩
  · exact .inl (List.append_eq_nil_iff.1 (hes.symm.trans hreset)).2

/-! ### What the reads of a due event went through -/

/-- What is read of a buffer is as long as asked for. -/
theorem length_of_readPrefix {n : Nat} {e : Elem} {buf : Vector (Option Byte) n} {len : Nat} {bs : List Byte}
    (h : readPrefix e buf len = .ok bs) : len = bs.length := by
  obtain ⟨hn, hbuf⟩ := readPrefix_eq_ok h
  have hlen := congrArg List.length hbuf
  simp only [List.length_take, Vector.length_toList, List.length_map] at hlen
  omega

/-- A frame that RESPOND sends is the response held and its checksum (42_lin_engine.md R239). -/
theorem responseFrame_eq_ok {frame : List Byte} (h : responseFrame l = .ok frame) :
    ∃ pid d, l.pid = some pid ∧ l.rspLen = some d.length ∧ l.rspBuf.toList.take d.length = d.map some ∧
      frame = d ++ [csumGen pid d] := by
  obtain ⟨len, hlen, h⟩ := bind_eq_ok h
  obtain ⟨d, hd, h⟩ := bind_eq_ok h
  obtain ⟨pid, hpid, h⟩ := bind_eq_ok h
  cases h
  obtain rfl := length_of_readPrefix hd
  exact ⟨pid, d, need_eq_ok.1 hpid, need_eq_ok.1 hlen, (readPrefix_eq_ok hd).2, rfl⟩

/-- The checksum is awaited when all of the command's data is held (30_encoding.md R103). -/
theorem cmdPhase_eq_check {pid : Byte} {d : List Byte} (h : cmdPhase l = .ok (.check pid d)) :
    l.pid = some pid ∧ l.cmdLen = some d.length ∧ l.cmdCnt = some d.length ∧ l.cmdBuf.toList.take d.length = d.map some := by
  obtain ⟨cnt, hcnt, h⟩ := bind_eq_ok h
  obtain ⟨len, hlen, h⟩ := bind_eq_ok h
  split at h
  · cases h
  · split at h
    · next heq =>
      subst heq
      obtain ⟨d', hd, h⟩ := bind_eq_ok h
      obtain ⟨pid', hpid, h⟩ := bind_eq_ok h
      cases h
      obtain rfl := length_of_readPrefix hd
      exact ⟨need_eq_ok.1 hpid, need_eq_ok.1 hlen, need_eq_ok.1 hcnt, (readPrefix_eq_ok hd).2⟩
    · cases h

end Due

/-! ### The obligation -/

/-- Settles O60: the one event that a step may add is due. -/
theorem outputsOnlyWhenDue : Obligations.OutputsOnlyWhenDue := by
  unfold Obligations.OutputsOnlyWhenDue
  intro s t es hstep hes
  obtain rfl | ⟨e, hdue, rfl⟩ := added_of_addsDue (step_addsDue hstep) hes
  · simp
  refine ⟨Nat.le_refl 1, fun bytes he => ?tx, fun fid d he => ?handled⟩
  case tx =>
    obtain rfl := List.mem_singleton.1 he
    obtain ⟨hl, hframe⟩ := hdue
    exact ⟨hl, responseFrame_eq_ok hframe⟩
  case handled =>
    obtain rfl := List.mem_singleton.1 he
    obtain ⟨hl, pid, hphase, hfid, hread⟩ := hdue
    obtain ⟨hpid, hlen, hcnt, hbuf⟩ := cmdPhase_eq_check hphase
    exact ⟨hl, hlen, hcnt, hbuf, pid, hpid, hfid, hread⟩

end Sys2Proof.Machine
end

section
/-! The One-Wire faults: a primitive that fails, and a byte operation at 9600 baud (43_onewire.md R302, R311; 60_exceptions.md R404,
R407, R409). Settles O22 and O28. -/

namespace Sys2Proof.Machine

/-! ### The pure statements record diagnostics alone -/

/-- From `w` to `v`, diagnostics alone are recorded. -/
def AddsDiags (w v : OwAgent) : Prop := ∃ es, (es.all fun e => (owDiag e).isSome) = true ∧ v.trace = w.trace ++ es

theorem AddsDiags.of_trace {w v : OwAgent} (h : v.trace = w.trace) : AddsDiags w v := ⟨[], rfl, by rw [h, List.append_nil]⟩

theorem AddsDiags.diag {w v : OwAgent} {d : DiagRec} (h : v.trace = w.trace ++ [.diag d]) : AddsDiags w v := ⟨_, rfl, h⟩

theorem AddsDiags.trans {u v w : OwAgent} (h₁ : AddsDiags u v) (h₂ : AddsDiags v w) : AddsDiags u w := by
  obtain ⟨es₁, hdiag₁, ht₁⟩ := h₁
  obtain ⟨es₂, hdiag₂, ht₂⟩ := h₂
  exact ⟨es₁ ++ es₂, by rw [List.all_append, hdiag₁, hdiag₂]; rfl, by rw [ht₂, ht₁, List.append_assoc]⟩

theorem presenceStmt_addsDiags {r : Option Byte} {w v : OwAgent} (h : presenceStmt r w = .ok v) : AddsDiags w v := by
  obtain ⟨c, -, h⟩ := bind_eq_ok h
  split at h <;> cases h
  · exact .of_trace rfl
  · exact .diag rfl

theorem storeStmt_addsDiags {r : Option Byte} {w v : OwAgent} (h : storeStmt r w = .ok v) : AddsDiags w v := by
  obtain ⟨c, -, h⟩ := bind_eq_ok h
  obtain ⟨rxb, -, h⟩ := bind_eq_ok h
  obtain ⟨n, -, h⟩ := bind_eq_ok h
  cases h; exact .of_trace rfl

theorem unloadStmt_addsDiags {w v : OwAgent} (h : unloadStmt w = .ok v) : AddsDiags w v := by
  obtain ⟨rxb, -, h⟩ := bind_eq_ok h
  cases h; exact .of_trace rfl

theorem storeByteStmt_addsDiags {w v : OwAgent} (h : storeByteStmt w = .ok v) : AddsDiags w v := by
  obtain ⟨b, -, h⟩ := bind_eq_ok h
  obtain ⟨n, -, h⟩ := bind_eq_ok h
  split at h <;> cases h
  exact .of_trace rfl

theorem verdictStmt_addsDiags {w v : OwAgent} (h : verdictStmt w = .ok v) : AddsDiags w v := by
  obtain ⟨sp, -, h⟩ := bind_eq_ok h
  dsimp only at h
  split at h <;> cases h
  · exact .of_trace rfl
  · exact .diag rfl

theorem andThen_addsDiags {x : Except Stop OwAgent} {f : OwAgent → Settled} {w v : OwAgent}
    (hx : ∀ {u}, x = .ok u → AddsDiags w u) (hf : ∀ {u}, (f u).agent = some v → AddsDiags u v)
    (h : (andThen x f).agent = some v) : AddsDiags w v := by
  cases x with
  | ok u => exact (hx rfl).trans (hf h)
  | error st => cases h

/-- What `settle_trace` says grows is diagnostics (43_onewire.md R301, 44_ds18b20_crc8.md R346). -/
theorem settle_addsDiags {r : Option Byte} {c : Option DsCmd} {k : List Stmt} {w v : OwAgent}
    (h : (settle r c k w).agent = some v) : AddsDiags w v := by
  induction k generalizing c w with
  | nil =>
    simp only [settle] at h
    split at h <;> cases h
    exact .of_trace rfl
  | cons i k ih =>
    cases i with
    | setBaud | txReset | rx | delay => cases h; exact .of_trace rfl
    | slots =>
      simp only [settle] at h
      split at h
      · cases h
      · split at h
        · split at h <;> cases h
          exact .of_trace rfl
        · exact ih h
    | presence => exact andThen_addsDiags presenceStmt_addsDiags ih h
    | load x => exact ih (w := loadByte x w) h
    | command d => exact ih (w := loadByte (dsCmdByte d) w) h
    | store => exact andThen_addsDiags storeStmt_addsDiags ih h
    | unload => exact andThen_addsDiags unloadStmt_addsDiags ih h
    | idxZero => exact ih (w := { w with idx := some 0 }) h
    | readBytes =>
      simp only [settle] at h
      split at h
      · cases h
      · split at h
        · cases h; exact .of_trace rfl
        · exact ih h
    | storeByte => exact andThen_addsDiags storeByteStmt_addsDiags ih h
    | verdict => exact andThen_addsDiags verdictStmt_addsDiags ih h

/-! ### A fault of the OW agent -/

section Fails

variable {s : State} {k : List Stmt} {r : Option Byte} {w : OwAgent} {es : List OwEvent}

/-- A fault behind the records `es` of the step keeps them (log entry 13). -/
theorem raiseOw_recorded (f : FaultRec) (hw : w.trace = s.ow.trace ++ es) :
    raiseOw f (recorded w s) = .next (owFaulted f es s) := by
  simp [raiseOw, recorded, owFaulted, hw]

/-- A failed primitive behind the records `es` of the step (43_onewire.md R311). -/
theorem failOw_recorded (p : Primitive) (hw : w.trace = s.ow.trace ++ es) :
    failOw p (recorded w s) = .next (owFaulted (.transportFailure .ow) (es ++ [.failed p]) s) := by
  simp [failOw, raiseOw, recordOw, recorded, owFaulted, hw]

theorem receive_failed {rest : List RxItem} (hrx : s.env.owRx = .fail :: rest) (hw : w.trace = s.ow.trace ++ es) :
    receive k w s = .next
      (owFaulted (.transportFailure .ow) (es ++ [.failed .owRx]) { s with env := { s.env with owRx := rest } }) := by
  simp only [receive, hrx]
  exact failOw_recorded (s := { s with env := { s.env with owRx := rest } }) .owRx hw

theorem transmit_failed {e : Env} (ch : Byte) (hd : drawOwTx s.env = (false, e)) (hw : w.trace = s.ow.trace ++ es) :
    transmit ch k r w s = .next
      (owFaulted (.transportFailure .ow) (es ++ [.failed .owTx]) { s with env := e }) := by
  simp only [transmit, hd]
  exact failOw_recorded (s := { s with env := e }) .owTx hw

end Fails

/-! ### The obligations -/

/-- Settles O28: the pure statements before the primitive record diagnostics alone, and the primitive fails. -/
theorem oneWireFailureFaults : Obligations.OneWireFailureFaults := by
  unfold Obligations.OneWireFailureFaults
  intro s p c hp
  obtain ⟨hb, q, k, w, hq, hsettle⟩ := owPending_eq_some hp
  obtain ⟨es, hdiag, htrace⟩ : AddsDiags s.ow w := settle_addsDiags (by rw [hsettle]; rfl)
  have hstep : owStep s = runPrim p k q.r w s := owStep_prim hb hq hsettle
  refine ⟨fun rest hprim hrx => ⟨es, hdiag, hstep.trans ?rx⟩, fun e hprim hd => ⟨es, hdiag, hstep.trans ?tx⟩⟩
  case rx =>
    subst hprim
    exact receive_failed hrx htrace
  case tx =>
    obtain rfl | ⟨⟨bit, rfl⟩, hr⟩ := hprim
    · exact transmit_failed _ hd htrace
    · obtain ⟨-, -, -, hbaud, -, -⟩ := settle_frame hsettle
      simp only [runPrim, hbaud.trans hr, if_true]
      exact transmit_failed _ hd htrace

/-- The first slot of a byte operation, at 9600 baud (43_onewire.md R302). -/
theorem owStep_byteProc_slow {s : State} {x : Byte} (hb : s.ow.owst = .busy) (hq : s.ow.seq = some ⟨byteProc x, none⟩)
    (hr : s.ow.baud = .b9600) : owStep s = .next (owFaulted (.slotBaud .b9600) [] s) := by
  calc owStep s
    _ = runPrim (.txSlot (x.getLsbD 0)) _ none (loadByte x s.ow) s := owStep_prim hb hq (settle_load_slots ..)
    _ = raiseOw (.slotBaud .b9600) (recorded (loadByte x s.ow) s) := by simp [runPrim, hr]
    _ = .next (owFaulted (.slotBaud .b9600) [] s) := raiseOw_recorded _ (List.append_nil _).symm

/-- Settles O22: the three operations run the procedure of a byte. -/
theorem slotAtWrongRateFaults : Obligations.SlotAtWrongRateFaults := by
  unfold Obligations.SlotAtWrongRateFaults
  rintro s x hi hr i (rfl | rfl | rfl)
  · exact ⟨_, acceptOw_idle .wrb _ hi, owStep_byteProc_slow rfl rfl hr⟩
  · exact ⟨_, acceptOw_idle .rb _ hi, owStep_byteProc_slow rfl rfl hr⟩
  · exact ⟨_, acceptOw_idle .wb _ hi, owStep_byteProc_slow rfl rfl hr⟩

end Sys2Proof.Machine
end

section
/-! `OW.SLOT`: its pair of steps is the agent's next two, with the readback listed first (43_onewire.md R300, R302). Settles O23. -/

namespace Sys2Proof.Machine

/-! ### A write's outcome and the readbacks -/

/-- The outcome of a write and the listed readbacks have nothing to do with each other. -/
theorem drawOwTx_withOwRx (e : Env) (rx : List RxItem) :
    drawOwTx { e with owRx := rx } = ((drawOwTx e).1, { (drawOwTx e).2 with owRx := rx }) := by
  simp only [drawOwTx]
  split <;> rfl

theorem drawOwTx_owRx (e : Env) : (drawOwTx e).2.owRx = e.owRx := by rw [drawOwTx_env]

/-! ### The pair -/

/-- The state with this readback listed first. -/
def withReadback (r : Byte) (s : State) : State := { s with env := { s.env with owRx := .byte r :: s.env.owRx } }

/-- A readback listed before the character or behind it is the same. -/
theorem slotSent_withReadback (ch : Byte) (k : List Stmt) (o : Option Byte) (w : OwAgent) (r : Byte) (s : State) :
    slotSent ch k o w (withReadback r s) = withReadback r (slotSent ch k o w s) := by
  simp only [slotSent, withReadback, drawOwTx_withOwRx, drawOwTx_owRx]

section Pair

variable {s : State} {q : Seq} {bit : Bool} {k : List Stmt} {w : OwAgent} {c : Option DsCmd}

/-- The character's step, with its readback listed. -/
theorem owStep_withReadback (r : Byte) (hb : s.ow.owst = .busy) (hq : s.ow.seq = some q)
    (hp : settle q.r none q.todo s.ow = .prim (.txSlot bit) k w c) (hr : s.ow.baud = .b115200)
    (hd : (drawOwTx s.env).1 = true) :
    owStep (withReadback r s) = .next (withReadback r (slotSent (slotChar bit) k q.r w s)) := by
  have hd' : (drawOwTx (withReadback r s).env).1 = true := by simpa [withReadback, drawOwTx_withOwRx] using hd
  rw [owStep_slotSent (s := withReadback r s) hb hq hp hr hd', slotSent_withReadback]

/-- The row's second step is that of the agent with the readback listed (log entry 22). -/
theorem exec_owSlot (r : Byte) (hb : s.ow.owst = .busy) (hq : s.ow.seq = some q)
    (hp : settle q.r none q.todo s.ow = .prim (.txSlot bit) k w c) (hr : s.ow.baud = .b115200)
    (hd : (drawOwTx s.env).1 = true) :
    exec (.owSlot bit r) s = owStep (withReadback r (slotSent (slotChar bit) k q.r w s)) := by
  obtain ⟨howst, -⟩ := settle_frame hp
  have hbusy : (slotSent (slotChar bit) k q.r w s).ow.owst = .busy := howst.trans hb
  simp [exec, execOwSlot, owPending_of_settle hb hq hp, owStep_slotSent hb hq hp hr hd, hbusy, withReadback]

end Pair

/-! ### The obligation -/

/-- Settles O23: the row and the two steps both send the character and then read back, and the procedure runs on. -/
theorem slotPairRuns : Obligations.SlotPairRuns := by
  unfold Obligations.SlotPairRuns
  intro s bit r c hs hp hr hd
  obtain ⟨hb, q, k', w, hq, hsettle⟩ := owPending_eq_some hp
  obtain ⟨k, rfl⟩ := settle_txSlot hsettle
  obtain ⟨-, -, -, hbaud, -, hwire⟩ := settle_frame hsettle
  obtain ⟨q', hq', o, hrun⟩ := (OwAgent.ok_busy_iff hb).1 hs.2
  obtain rfl : q' = q := Option.some.inj (hq'.symm.trans hq)
  have hsound := settle_sound (c := none) hrun
  rw [hsettle] at hsound
  have hrunning : Running o q'.r (.rx :: .store :: .slots :: k) w := hsound.1 nofun
  obtain ⟨u, hu, hreadback, henv, -⟩ := owStep_rx
    (s := withReadback r (slotSent (slotChar bit) (.rx :: .store :: .slots :: k) q'.r w s)) (hrunning.aside _ w.baud _) rfl rfl
  refine ⟨u, (exec_owSlot r hb hq hsettle hr hd).trans hu, ?wire, hreadback.baud.trans (hbaud.trans hr), hreadback.lin, henv,
    ?steps⟩
  case wire =>
    calc wire u.ow.trace
      _ = wire (w.trace ++ [.tx (slotChar bit)]) ++ [.rx r] := hreadback.wire
      _ = wire s.ow.trace ++ [.tx (slotChar bit), .rx r] := by
        rw [wire_append, hwire, List.append_assoc]; rfl
  case steps =>
    calc owSteps 2 (withReadback r s)
      _ = owSteps 1 _ := owSteps_succ (owStep_withReadback r hb hq hsettle hr hd)
      _ = .next u := (owSteps_one _).trans hu

end Sys2Proof.Machine
end

section
/-! The byte that eight readbacks make, bit 0 first (30_encoding.md R114, 43_onewire.md R303), and what it is on a line without a
device and on an open-drain line (R306, R307). Settles O21. -/

namespace Sys2Proof.Machine

/-! ### The byte, bit for bit -/

theorem getLsbD_byteOfSlots (rs : Fin 8 → Byte) (i : Fin 8) : (byteOfSlots rs).getLsbD i = slotBit (rs i) := by
  rw [byteOfSlots, BitVec.getLsbD_ofFnLE, dif_pos i.isLt]

/-- A slot's character, read back, is its bit (43_onewire.md R302). -/
theorem slotBit_slotChar (b : Bool) : slotBit (slotChar b) = b := by cases b <;> rfl

/-- A line that is pulled low is not read back as 1 (43_onewire.md R306). -/
theorem slotBit_of_openDrain {r : Byte} (h : owOpenDrain (slotChar false) r) : slotBit r = false := by
  refine beq_eq_false_iff_ne.2 ?_
  rintro rfl
  have hones : (0xFF : Byte) &&& ~~~0x00 = 0 := h
  exact absurd hones (by decide)

/-! ### The obligation -/

/-- Settles O21: bit by bit, and a reset readback that is the reset character shows no presence. -/
theorem lineLaws : Obligations.LineLaws := by
  unfold Obligations.LineLaws
  intro x rs
  refine ⟨fun h => ?noDevice, fun h => ?openDrain, fun r h => ?presence⟩
  case noDevice =>
    refine BitVec.eq_of_getLsbD_eq fun i hi => ?_
    have hr : rs ⟨i, hi⟩ = slotChar (x.getLsbD i) := h ⟨i, hi⟩
    calc (byteOfSlots rs).getLsbD i
      _ = slotBit (rs ⟨i, hi⟩) := getLsbD_byteOfSlots rs ⟨i, hi⟩
      _ = x.getLsbD i := by rw [hr, slotBit_slotChar]
  case openDrain =>
    refine BitVec.eq_of_getLsbD_eq fun i hi => ?_
    have hbit : (byteOfSlots rs).getLsbD i = slotBit (rs ⟨i, hi⟩) := getLsbD_byteOfSlots rs ⟨i, hi⟩
    have hline : owOpenDrain (slotChar (x.getLsbD i)) (rs ⟨i, hi⟩) := h ⟨i, hi⟩
    cases hx : x.getLsbD i with
    | true => simp [hx]
    | false =>
      rw [hx] at hline
      simp [hbit, slotBit_of_openDrain hline]
  case presence => exact bne_eq_false_iff_eq.2 h

end Sys2Proof.Machine
end

section
/-! A byte on the One-Wire line: its eight slots in sixteen steps, with the whole state after each (43_onewire.md R303 to R305).
Settles O20. -/

namespace Sys2Proof.Machine

/-! ### The byte that readbacks make -/

/-- `v` with the bits from `n` on that the readbacks of further slots add. -/
def readBits (v : Byte) : Nat → List Byte → Byte
  | _, [] => v
  | n, r :: rs => readBits (putBit v (slotBit r) n) (n + 1) rs

theorem readBits_concat (v : Byte) (n : Nat) (rs : List Byte) (r : Byte) :
    readBits v n (rs ++ [r]) = putBit (readBits v n rs) (slotBit r) (n + rs.length) := by
  induction rs generalizing v n with
  | nil => rfl
  | cons a rs ih => rw [List.cons_append, readBits, ih, List.length_cons, Nat.add_right_comm, Nat.add_assoc]; rfl

theorem getLsbD_putBit (v : Byte) (o : Bool) (n i : Nat) (hi : i < 8) :
    (putBit v o n).getLsbD i = (v.getLsbD i || (decide (i = n) && o)) := by
  cases o
  · simp [putBit]
  · by_cases hlt : i < n
    · simp [putBit, hlt, Nat.ne_of_lt hlt]
    · have hz : decide (i - n = 0) = decide (i = n) := decide_eq_decide.2 (by omega)
      simp [putBit, hi, hlt, hz]

theorem getLsbD_readBits {v : Byte} {n : Nat} {rs : List Byte} {i : Nat} (hi : i < 8) :
    (readBits v n rs).getLsbD i = (v.getLsbD i || (decide (n ≤ i) && rs[i - n]?.any slotBit)) := by
  induction rs generalizing v n with
  | nil => simp [readBits]
  | cons r rs ih =>
    rw [readBits, ih, getLsbD_putBit _ _ _ _ hi, Bool.or_assoc]
    congr 1
    obtain hlt | rfl | hgt := Nat.lt_trichotomy i n
    · simp [Nat.ne_of_lt hlt, Nat.not_le.2 hlt, show ¬ n + 1 ≤ i by omega]
    · simp
    · obtain ⟨m, rfl⟩ : ∃ m, i = n + 1 + m := ⟨i - (n + 1), by omega⟩
      simp [show n + 1 + m ≠ n by omega, show n + 1 + m - n = m + 1 by omega, show n ≤ n + 1 + m by omega]

/-- Eight readbacks make the byte observed, bit 0 first (30_encoding.md R114). -/
theorem readBits_ofFn (rs : Fin 8 → Byte) : readBits 0 0 (List.ofFn rs) = byteOfSlots rs := by
  refine BitVec.eq_of_getLsbD_eq fun i hi => ?_
  rw [getLsbD_readBits hi, getLsbD_byteOfSlots rs ⟨i, hi⟩]
  simp [hi, -List.ofFn_succ]

/-! ### A slot's two steps -/

section Slots

variable {s : State} {x v r : Byte} {n : Nat} {k : List Stmt} {w : OwAgent} {rx : List RxItem} {tx : List Bool}

/-- The pure statements at hand lead to `w`, which sends slot `n` of the byte `x` at 115200 baud, with `v` read so far. -/
structure AtSlot (x v : Byte) (n : Nat) (k : List Stmt) (w : OwAgent) (s : State) : Prop where
  busy : s.ow.owst = .busy
  baud : s.ow.baud = .b115200
  settled : ∃ q c, s.ow.seq = some q ∧
    settle q.r none q.todo s.ow = .prim (.txSlot (x.getLsbD n)) (.rx :: .store :: .slots :: k) w c
  txb : w.txb = some x
  rxb : w.rxb = some v
  bit : w.bit = some n

/-- The agent behind a slot's character and its readback, at this place of its procedure. -/
def readBack (ch r : Byte) (sq : Option Seq) (w : OwAgent) : OwAgent :=
  { w with trace := w.trace ++ [.tx ch, .rx r], seq := sq }

/-- The agent behind slots of `x` from slot `n` on, `v` read before them. -/
def readSlots (x v : Byte) (n : Nat) (rs : List Byte) (sq : Option Seq) (w : OwAgent) : OwAgent :=
  { w with
    rxb := some (readBits v n rs), bit := some (n + rs.length), trace := w.trace ++ slotEventsFrom x n rs, seq := sq }

theorem readSlots_nil {sq : Option Seq} (hv : w.rxb = some v) (hn : w.bit = some n) (hsq : w.seq = sq) :
    readSlots x v n [] sq w = w := by
  subst hsq
  simp only [readSlots, slotEventsFrom, readBits, List.length_nil, Nat.add_zero, List.append_nil, ← hv, ← hn]

theorem readSlots_readSlots (rs : List Byte) (sq sq' : Option Seq) :
    readSlots x (putBit v (slotBit r) n) (n + 1) rs sq (readSlots x v n [r] sq' w) = readSlots x v n (r :: rs) sq w := by
  simp only [readSlots, slotEventsFrom, readBits, List.length_cons, List.append_assoc, List.append_nil, Nat.add_assoc,
    Nat.add_comm 1]

/-- The step behind a slot's character, with its readback listed. -/
theorem owStep_slotSent_rx (ch : Byte) (o : Option Byte) (hb : w.owst = .busy) (hrx : s.env.owRx = .byte r :: rx)
    (htx : s.env.owTx = true :: tx) :
    owStep (slotSent ch (.rx :: k) o w s) = completePrim k (some r) (readBack ch r (some ⟨.rx :: k, o⟩) w)
      (owInputs rx tx { s with ow := (slotSent ch (.rx :: k) o w s).ow }) := by
  rw [owStep_prim (p := .rx) (k := k) hb rfl rfl]
  simp only [runPrim, receive, slotSent, drawOwTx_listed true tx s.env htx, hrx, List.append_assoc]
  rfl

/-- A slot is its character's step and its readback's (43_onewire.md R302). -/
theorem AtSlot.pair (h : AtSlot x v n k w s) (hrx : s.env.owRx = .byte r :: rx) (htx : s.env.owTx = true :: tx) :
    ∃ sq a, owSteps 2 s = completePrim (.store :: .slots :: k) (some r) (readBack (slotChar (x.getLsbD n)) r sq w)
      (owInputs rx tx { s with ow := a }) := by
  obtain ⟨q, c, hq, hsettle⟩ := h.settled
  obtain ⟨howst, -⟩ := settle_frame hsettle
  have hsent := owStep_slotSent h.busy hq hsettle h.baud (by rw [drawOwTx_listed true tx s.env htx])
  have hread := owStep_slotSent_rx (k := .store :: .slots :: k) (slotChar (x.getLsbD n)) q.r (howst.trans h.busy) hrx htx
  exact ⟨_, _, by rw [owSteps_succ hsent, owSteps_one, hread]⟩

/-- Behind a slot that is not the last, the agent stands before the next one. -/
theorem AtSlot.next (h : AtSlot x v n k w s) (hlt : n < 7) (hrx : s.env.owRx = .byte r :: rx)
    (htx : s.env.owTx = true :: tx) :
    ∃ u, owSteps 2 s = .next (owInputs rx tx { s with ow := u }) ∧
      AtSlot x (putBit v (slotBit r) n) (n + 1) k (readSlots x v n [r] u.seq w) (owInputs rx tx { s with ow := u }) := by
  obtain ⟨sq, a, hsteps⟩ := h.pair hrx htx
  obtain ⟨q, c, -, hsettle⟩ := h.settled
  obtain ⟨howst, -, -, hbaud, -⟩ := settle_frame hsettle
  have hnext (sq' : Option Seq) :=
    settle_store_slots (r := r) (c := none) (k := k) (w := readBack (slotChar (x.getLsbD n)) r sq' w) h.rxb h.bit h.txb hlt
  refine ⟨readBack (slotChar (x.getLsbD n)) r (some ⟨.store :: .slots :: k, some r⟩) w, hsteps.trans ?_, howst.trans h.busy,
    hbaud.trans h.baud, ⟨_, _, rfl, hnext _⟩, h.txb, rfl, rfl⟩
  simp only [completePrim, hnext]
  rfl

/-- Slots one after another, up to the last. -/
theorem AtSlot.slots {rs : List Byte} (h : AtSlot x v n k w s) (hlen : n + rs.length ≤ 7)
    (hrx : s.env.owRx = rs.map .byte ++ rx) (htx : s.env.owTx = List.replicate rs.length true ++ tx) :
    ∃ u, owSteps (2 * rs.length) s = .next (owInputs rx tx { s with ow := u }) ∧
      AtSlot x (readBits v n rs) (n + rs.length) k (readSlots x v n rs u.seq w) (owInputs rx tx { s with ow := u }) := by
  induction rs generalizing v n w s with
  | nil =>
    obtain rfl : s.env.owRx = rx := hrx
    obtain rfl : s.env.owTx = tx := htx
    obtain ⟨q, c, -, hsettle⟩ := h.settled
    obtain ⟨-, -, hseq, -⟩ := settle_frame hsettle
    refine ⟨s.ow, rfl, ?_⟩
    rw [readSlots_nil h.rxb h.bit hseq]
    exact h
  | cons r rs ih =>
    simp only [List.length_cons] at hlen
    obtain ⟨t, ht, hnext⟩ := h.next (by omega) hrx htx
    obtain ⟨u, hu, hslots⟩ := ih hnext (by omega) rfl rfl
    rw [readSlots_readSlots] at hslots
    refine ⟨u, ?steps, ?there⟩
    case steps =>
      rw [List.length_cons, Nat.mul_add, Nat.add_comm, owSteps_add ht]
      exact hu
    case there =>
      rw [List.length_cons, ← Nat.add_assoc, Nat.add_right_comm]
      exact hslots

/-! ### The whole byte -/

/-- The agent behind the eight slots of `x` and the unloading of its byte (43_onewire.md R303). -/
def byteRead (x : Byte) (rs : Fin 8 → Byte) (w : OwAgent) : OwAgent :=
  { w with
    txb := none, rxb := none, bit := none, result := some (byteOfSlots rs), trace := w.trace ++ slotEvents x rs }

/-- The last slot's readback and the unloading. -/
theorem settle_readBack_last (rs : Fin 8 → Byte) (sq sq' : Option Seq) (c : Option DsCmd) :
    settle (some (rs 7)) c (.store :: .slots :: .unload :: k)
        (readBack (slotChar (x.getLsbD 7)) (rs 7) sq (readSlots x 0 0 (List.ofFn fun i : Fin 7 => rs i.castSucc) sq' w)) =
      settle (some (rs 7)) none k { byteRead x rs w with seq := sq } := by
  have hsplit : List.ofFn rs = List.ofFn (fun i : Fin 7 => rs i.castSucc) ++ [rs 7] := rfl
  have hbyte : putBit (readBits 0 0 (List.ofFn fun i : Fin 7 => rs i.castSucc)) (slotBit (rs 7)) 7 = byteOfSlots rs := by
    rw [← readBits_ofFn, hsplit, readBits_concat]; rfl
  have hevents : slotEventsFrom x 0 (List.ofFn fun i : Fin 7 => rs i.castSucc) ++ [.tx (slotChar (x.getLsbD 7)), .rx (rs 7)] =
      slotEvents x rs := rfl
  rw [settle_lastStore rfl rfl, hbyte]
  simp only [readBack, readSlots, byteRead, List.append_assoc, hevents]

/-- A byte is sixteen steps; the last of them goes on with what follows the byte, from the agent `byteRead`. -/
theorem AtSlot.byte {rs : Fin 8 → Byte} (h : AtSlot x 0 0 (.unload :: k) w s) (hrx : s.env.owRx = slotItems rs ++ rx)
    (htx : s.env.owTx = List.replicate 8 true ++ tx) :
    ∃ v a, owSteps 16 s =
        completePrim (.store :: .slots :: .unload :: k) (some (rs 7)) v (owInputs rx tx { s with ow := a }) ∧
      settle (some (rs 7)) none (.store :: .slots :: .unload :: k) v =
        settle (some (rs 7)) none k { byteRead x rs w with seq := v.seq } := by
  obtain ⟨u, hu, hlast⟩ := h.slots (rs := List.ofFn fun i : Fin 7 => rs i.castSucc) (rx := .byte (rs 7) :: rx)
    (tx := true :: tx) (Nat.le_refl 7) hrx htx
  obtain ⟨sq, a, hpair⟩ := hlast.pair rfl rfl
  exact ⟨_, a, (owSteps_add hu).trans hpair, settle_readBack_last rs sq u.seq none⟩

end Slots

/-! ### The operations -/

theorem completePrim_done {k : List Stmt} {r : Option Byte} {w w' : OwAgent} {op : OwOp} {v : HostValue} (s : State)
    (h : settle r none k w = .done op v w') : completePrim k r w s = .next (finishOw op v w' s) := by
  simp [completePrim, h]

theorem settle_nil {r : Option Byte} {c : Option DsCmd} {w : OwAgent} {op : OwOp} {v : HostValue}
    (h : returnValue w = .ok (op, v)) : settle r c [] w = .done op v w := by
  simp [settle, h]

/-- An operation of one byte stands before its first slot when it is accepted. -/
theorem atSlot_accepted {s : State} (op : OwOp) (x : Byte) (hr : s.ow.baud = .b115200) :
    AtSlot x 0 0 [.unload] { s.ow with
        op := some op, seq := some ⟨byteProc x, none⟩, owst := .busy, txb := some x, rxb := some 0, bit := some 0 }
      { s with ow := { s.ow with op := some op, seq := some ⟨byteProc x, none⟩, owst := .busy } } :=
  ⟨rfl, hr, ⟨_, _, rfl, settle_load_slots ..⟩, rfl, rfl, rfl⟩

/-- An operation of one byte: accepted, and ended after sixteen steps with the value it returns. -/
theorem byteOperation_runs {s : State} {x : Byte} {rs : Fin 8 → Byte} {rx : List RxItem} {tx : List Bool} {op : OwOp}
    {v : HostValue} (hi : s.ow.owst = .idle) (hr : s.ow.baud = .b115200) (hrx : s.env.owRx = slotItems rs ++ rx)
    (htx : s.env.owTx = List.replicate 8 true ++ tx)
    (hv : ∀ w : OwAgent, w.op = some op → w.result = some (byteOfSlots rs) → returnValue w = .ok (op, v)) :
    ∃ t, acceptOw op (byteProc x) s = .next t ∧ owSteps 16 t = .next { owInputs rx tx s with
      ow := { s.ow with
        owst := .idle, op := none, seq := none, txb := none, rxb := none, bit := none
        result := some (byteOfSlots rs), trace := s.ow.trace ++ slotEvents x rs ++ [.ret v] }
      host := s.host ++ [.returned op v] } := by
  refine ⟨_, acceptOw_idle op (byteProc x) hi, ?_⟩
  obtain ⟨w, a, hsteps, hsettle⟩ := (atSlot_accepted op x hr).byte hrx htx
  rw [hsteps, completePrim_done _ (hsettle.trans (settle_nil (hv _ rfl rfl)))]
  rfl

/-- Settles O20: each operation is one byte, and they differ in what they return. -/
theorem byteOperationsRun : Obligations.ByteOperationsRun := by
  unfold Obligations.ByteOperationsRun
  intro s x rs rx tx hi hr hrx htx ended
  refine ⟨byteOperation_runs hi hr hrx htx fun w hop hresult => ?wrb,
    byteOperation_runs hi hr hrx htx fun w hop hresult => ?rb, byteOperation_runs hi hr hrx htx fun w hop _ => ?wb⟩
  case wrb => simp [returnValue, hop, hresult, bind, Except.bind]
  case rb => simp [returnValue, hop, hresult, bind, Except.bind]
  case wb => simp [returnValue, hop, bind, Except.bind]

end Sys2Proof.Machine
end

section
/-! `OW.RESET`: its four primitives in order, and the presence verdict in the last step (43_onewire.md R301). Settles O19. -/

namespace Sys2Proof.Machine

section Reset

variable {s : State} {k k' : List Stmt} {o : Option Byte} {w w' : OwAgent} {p : Prim} {c : Option DsCmd}

/-- Before a further primitive, the agent stands there with its place in `OW.SEQ`. -/
theorem completePrim_prim (h : settle o none k w = .prim p k' w' c) :
    completePrim k o w s = .next { s with ow := { w with seq := some ⟨k, o⟩ } } := by
  simp [completePrim, h]

/-- The step `OwSetBaud(b)` at the head of a procedure (43_onewire.md R301). -/
theorem owStep_setBaud {b : Baud} (hb : s.ow.owst = .busy) (hq : s.ow.seq = some ⟨.setBaud b :: k, o⟩) :
    owStep s = completePrim k o { s.ow with baud := b, trace := s.ow.trace ++ [.baud b] } s :=
  owStep_prim (p := .setBaud b) hb hq rfl

/-- The step of the reset character is what its row answers (43_onewire.md R301; log entry 21). -/
theorem owStep_txReset (hb : s.ow.owst = .busy) (hq : s.ow.seq = some ⟨.txReset :: .rx :: k, o⟩)
    (hd : (drawOwTx s.env).1 = true) : owStep s = .next (slotSent 0xF0 (.rx :: k) o s.ow s) := by
  have hp : settle o none (.txReset :: .rx :: k) s.ow = .prim .txReset (.rx :: k) s.ow none := rfl
  rw [← exec_charReset_sent hb hq hd]
  simp [exec, execOwCharReset, owPending_of_settle hb hq hp]

/-- The reset character and its readback, with a rate to be set behind them. -/
theorem owSteps_resetChar {r : Byte} {rx : List RxItem} {tx : List Bool} {b : Baud} (hb : s.ow.owst = .busy)
    (hq : s.ow.seq = some ⟨.txReset :: .rx :: .setBaud b :: k, o⟩) (hrx : s.env.owRx = .byte r :: rx)
    (htx : s.env.owTx = true :: tx) : owSteps 2 s =
      .next (owInputs rx tx { s with ow := readBack 0xF0 r (some ⟨.setBaud b :: k, some r⟩) s.ow }) := by
  have hchar := owStep_txReset hb hq (by rw [drawOwTx_listed true tx s.env htx])
  rw [owSteps_succ hchar, owSteps_one]
  exact (owStep_slotSent_rx _ o hb hrx htx).trans (completePrim_prim rfl)

/-- A reset is four steps; the last of them goes on with what follows the reset, from the agent at 115200 baud with the presence
verdict and its diagnostic. -/
theorem owSteps_resetProc {r : Byte} {rx : List RxItem} {tx : List Bool} (hb : s.ow.owst = .busy)
    (hq : s.ow.seq = some ⟨resetProc ++ k, o⟩) (hrx : s.env.owRx = .byte r :: rx) (htx : s.env.owTx = true :: tx) :
    ∃ v a, owSteps 4 s = completePrim (.presence :: k) (some r) v (owInputs rx tx { s with ow := a }) ∧
      settle (some r) none (.presence :: k) v = settle (some r) none k { s.ow with
        baud := .b115200, pres := some (presence r), trace := s.ow.trace ++ resetEvents r ++ absenceEvents r, seq := v.seq } := by
  have hslow := (owStep_setBaud hb hq).trans (completePrim_prim rfl)
  have hread := owSteps_resetChar (k := .presence :: k) (b := .b115200)
    (s := { s with ow := { s.ow with
      baud := .b9600, trace := s.ow.trace ++ [.baud .b9600]
      seq := some ⟨[.txReset, .rx, .setBaud .b115200, .presence] ++ k, o⟩ } })
    hb rfl hrx htx
  refine ⟨_, _, (owSteps_succ hslow).trans ((owSteps_add hread).trans ((owSteps_one _).trans (owStep_setBaud hb rfl))), ?_⟩
  rw [settle_presence]
  simp only [readBack, owInputs, List.append_assoc]
  rfl

end Reset

/-! ### The obligation -/

theorem presence_eq_decide (r : Byte) : presence r = decide (r ≠ 0xF0) := by
  rw [presence, bne, decide_not]; rfl

/-- Settles O19: the procedure is the reset alone, and what it returns is the verdict. -/
theorem resetPulseRuns : Obligations.ResetPulseRuns := by
  unfold Obligations.ResetPulseRuns
  intro s r rx tx hi hrx htx
  refine ⟨_, acceptOw_idle .reset resetProc hi, ?_⟩
  obtain ⟨v, a, hsteps, hsettle⟩ := owSteps_resetProc (k := [])
    (s := { s with ow := { s.ow with op := some .reset, seq := some ⟨resetProc, none⟩, owst := .busy } }) rfl rfl hrx htx
  rw [hsteps, completePrim_done _ (hsettle.trans (settle_nil (op := .reset) (v := .bit (presence r)) rfl)), ← presence_eq_decide]
  rfl

end Sys2Proof.Machine
end

section
/-! The CRC8 unit and the temperature's decode: the register as a shift register of the exclusive or of register and data byte,
and what it detects (44_ds18b20_crc8.md R340 to R343). Settles O16 to O18. -/

namespace Sys2Proof.Machine

/-! ### The shift register (R340) -/

/-- The bit that a round tests is bit 0. -/
theorem and_one_eq_one_iff (x : Byte) : x &&& 1 = 1 ↔ x.getLsbD 0 = true := by
  rw [BitVec.ofNat_eq_ofNat, BitVec.and_one_eq_setWidth_ofBool_getLsbD]
  cases x.getLsbD 0 <;> decide

/-- A round on the exclusive or of the register and the data byte: shift right, and add the polynomial for the bit shifted out. -/
def crc8Shift (x : Byte) : Byte := if x.getLsbD 0 then (x >>> 1) ^^^ Config.crc8Poly else x >>> 1

theorem crc8Round_xor (p : Byte × Byte) : (crc8Round p).1 ^^^ (crc8Round p).2 = crc8Shift (p.1 ^^^ p.2) := by
  simp only [crc8Round, crc8Shift, BitVec.ushiftRight_xor_distrib]
  split
  · rw [BitVec.xor_assoc, BitVec.xor_assoc, BitVec.xor_comm Config.crc8Poly]
  · rfl

theorem crc8Rounds_xor (n : Nat) (p : Byte × Byte) :
    (crc8Round^[n] p).1 ^^^ (crc8Round^[n] p).2 = crc8Shift^[n] (p.1 ^^^ p.2) := by
  induction n generalizing p with
  | zero => rfl
  | succ n ih => rw [Function.iterate_succ_apply, Function.iterate_succ_apply, ih, crc8Round_xor]

/-- The data byte is used up bit by bit. -/
theorem crc8Rounds_snd (n : Nat) (p : Byte × Byte) : (crc8Round^[n] p).2 = p.2 >>> n := by
  induction n generalizing p with
  | zero => rfl
  | succ n ih =>
    rw [Function.iterate_succ_apply, ih, Nat.add_comm, BitVec.shiftRight_add]
    rfl

/-- `CRC8.UPDATE` depends on the exclusive or of its arguments alone. -/
theorem crc8Update_eq (crc b : Byte) : crc8Update crc b = crc8Shift^[8] (crc ^^^ b) := by
  have hused : (crc8Round^[8] (crc, b)).2 = 0#8 :=
    (crc8Rounds_snd 8 (crc, b)).trans (BitVec.ushiftRight_eq_zero (Nat.le_refl 8))
  rw [← crc8Rounds_xor 8 (crc, b), hused, BitVec.xor_zero, crc8Update]

/-! ### What the register keeps apart (R342) -/

/-- The polynomial's top bit records the bit that was shifted out. -/
theorem getLsbD_crc8Shift (x : Byte) : (crc8Shift x).getLsbD 7 = x.getLsbD 0 := by
  have hshift : (x >>> 1).getLsbD 7 = false := by rw [BitVec.getLsbD_ushiftRight, BitVec.getLsbD_of_ge _ _ (by decide)]
  have hpoly : Config.crc8Poly.getLsbD 7 = true := rfl
  unfold crc8Shift
  split
  · next h => rw [BitVec.getLsbD_xor, hshift, hpoly, h]; rfl
  · next h => rw [hshift, Bool.eq_false_iff.2 h]

theorem eq_of_shiftRight_eq {x y : Byte} (h0 : x.getLsbD 0 = y.getLsbD 0) (h : x >>> 1 = y >>> 1) : x = y := by
  refine BitVec.eq_of_getLsbD_eq fun i _ => ?_
  cases i with
  | zero => exact h0
  | succ i => simpa [Nat.add_comm 1] using congrArg (BitVec.getLsbD · i) h

theorem crc8Shift_injective : Function.Injective crc8Shift := by
  intro x y h
  have h0 : x.getLsbD 0 = y.getLsbD 0 := by rw [← getLsbD_crc8Shift, h, getLsbD_crc8Shift]
  refine eq_of_shiftRight_eq h0 ?_
  unfold crc8Shift at h
  rw [h0] at h
  split at h
  · exact (BitVec.xor_left_inj _).1 h
  · exact h

theorem crc8Update_eq_iff {crc crc' b b' : Byte} : crc8Update crc b = crc8Update crc' b' ↔ crc ^^^ b = crc' ^^^ b' := by
  rw [crc8Update_eq, crc8Update_eq, (crc8Shift_injective.iterate 8).eq_iff]

/-- The register's own value brings it to 0. -/
theorem crc8Update_self (crc : Byte) : crc8Update crc crc = 0 := by
  rw [crc8Update_eq, BitVec.xor_self]; rfl

/-- The bytes behind keep two registers apart. -/
theorem foldl_crc8Update_inj {crc crc' : Byte} (bytes : List Byte) :
    bytes.foldl crc8Update crc = bytes.foldl crc8Update crc' ↔ crc = crc' := by
  induction bytes generalizing crc crc' with
  | nil => rfl
  | cons b bytes ih => rw [List.foldl_cons, List.foldl_cons, ih, crc8Update_eq_iff, BitVec.xor_left_inj]

theorem crc8Check_append_cons (l r : List Byte) (b : Byte) :
    crc8Check (l ++ b :: r) = r.foldl crc8Update (crc8Update (crc8Check l) b) := by
  rw [crc8Check, List.foldl_append, List.foldl_cons, crc8Check]

/-- Two sequences that differ in one byte have different registers. -/
theorem crc8Check_append_cons_inj {l r : List Byte} {b b' : Byte} :
    crc8Check (l ++ b :: r) = crc8Check (l ++ b' :: r) ↔ b = b' := by
  rw [crc8Check_append_cons, crc8Check_append_cons, foldl_crc8Update_inj, crc8Update_eq_iff, BitVec.xor_right_inj]

/-! ### The temperature (R343) -/

theorem toNat_rawOf (lo hi : Byte) : (rawOf lo hi).toNat = 256 * hi.toNat + lo.toNat := by
  rw [rawOf, BitVec.toNat_append, ← Nat.shiftLeft_add_eq_or_of_lt lo.isLt, Nat.shiftLeft_eq, Nat.mul_comm]

/-! ### The obligations -/

/-- Settles O16: the round written out is `crc8Round`, and both requests are typed. -/
theorem crcUnitAnswers : Obligations.CrcUnitAnswers := by
  unfold Obligations.CrcUnitAnswers
  intro s crc b bytes round
  have hround : round = crc8Round := by
    funext p
    simp only [round, crc8Round, and_one_eq_one_iff]
    rfl
  rw [hround]
  exact ⟨answerTyped_of_typed s rfl, answerTyped_of_typed s rfl⟩

/-- Settles O17: the register added to itself gives 0, and a passing sequence differs from one with a byte changed. -/
theorem crcLaws : Obligations.CrcLaws := by
  unfold Obligations.CrcLaws
  refine ⟨fun d => ?appended, fun d i v hd hi hv h => ?changed⟩
  case appended => rw [crc8Check_append_cons, crc8Update_self]; rfl
  case changed =>
    have hsplit : d = d.take i ++ d[i] :: d.drop (i + 1) := by
      rw [← List.drop_eq_getElem_cons hi, List.take_append_drop]
    rw [hsplit, ← h, List.set_eq_take_append_cons_drop, if_pos hi, crc8Check_append_cons_inj] at hd
    exact hv (by rw [List.getElem?_eq_getElem hi, hd])

/-- Settles O18: the sign is that of bit 15. -/
theorem temperatureDecoded : Obligations.TemperatureDecoded := by
  unfold Obligations.TemperatureDecoded
  intro s lo hi rest hlen
  have hwf : ((lo :: hi :: rest).length == 9) = true := by rw [List.length_cons, List.length_cons, hlen]; rfl
  refine ⟨rawOf lo hi, answerTyped_of_typed s hwf, ?_⟩
  rw [BitVec.toInt_eq_toNat_cond, toNat_rawOf]
  split <;> split <;> omega

end Sys2Proof.Machine
end

section
/-! The DS18B20 operations: resets, commands and bytes read as stretches of a run, put one behind the other
(44_ds18b20_crc8.md R344, R346). Settles O26 and O27. -/

namespace Sys2Proof.Machine

/-! ### The pure statements do not look at `OW.SEQ` -/

/-- The outcome with the agent at this place of its procedure. -/
def Settled.withSeq (sq : Option Seq) : Settled → Settled
  | .prim p k w c => .prim p k { w with seq := sq } c
  | .done op v w => .done op v { w with seq := sq }
  | .stop st => .stop st

theorem andThen_withSeq {sq : Option Seq} {x x' : Except Stop OwAgent} {f : OwAgent → Settled}
    (hx : x' = x.map fun w => { w with seq := sq }) (hf : ∀ w : OwAgent, f { w with seq := sq } = (f w).withSeq sq) :
    andThen x' f = (andThen x f).withSeq sq := by
  subst hx
  cases x with
  | ok w => exact hf w
  | error st => rfl

theorem presenceStmt_withSeq (sq : Option Seq) (r : Option Byte) (w : OwAgent) :
    presenceStmt r { w with seq := sq } = (presenceStmt r w).map fun w => { w with seq := sq } := by
  cases r with
  | none => rfl
  | some c => by_cases hp : presence c = true <;> simp [presenceStmt, hp, bind, Except.bind, Except.map]

theorem storeStmt_withSeq (sq : Option Seq) (r : Option Byte) (w : OwAgent) :
    storeStmt r { w with seq := sq } = (storeStmt r w).map fun w => { w with seq := sq } := by
  simp only [storeStmt]
  cases need .owSeq r <;> cases need .owRxb w.rxb <;> cases need .owBit w.bit <;> rfl

theorem unloadStmt_withSeq (sq : Option Seq) (w : OwAgent) :
    unloadStmt { w with seq := sq } = (unloadStmt w).map fun w => { w with seq := sq } := by
  simp only [unloadStmt]
  cases need .owRxb w.rxb <;> rfl

theorem storeByteStmt_withSeq (sq : Option Seq) (w : OwAgent) :
    storeByteStmt { w with seq := sq } = (storeByteStmt w).map fun w => { w with seq := sq } := by
  simp only [storeByteStmt]
  cases need .owResult w.result with
  | error st => rfl
  | ok b =>
    cases need .dsIdx w.idx with
    | error st => rfl
    | ok i => by_cases hi : i < Config.spLen <;> simp [hi, bind, Except.bind, Except.map]

theorem verdictStmt_withSeq (sq : Option Seq) (w : OwAgent) :
    verdictStmt { w with seq := sq } = (verdictStmt w).map fun w => { w with seq := sq } := by
  simp only [verdictStmt]
  cases readPrefix .dsSp w.sp Config.spLen with
  | error st => rfl
  | ok sp => by_cases hc : crc8Check sp = 0#8 <;> simp [hc, bind, Except.bind, Except.map]

/-- What the pure statements do is the same at any place. -/
theorem settle_withSeq (sq : Option Seq) (r : Option Byte) (c : Option DsCmd) (k : List Stmt) (w : OwAgent) :
    settle r c k { w with seq := sq } = (settle r c k w).withSeq sq := by
  induction k generalizing c w with
  | nil =>
    simp only [settle]
    have hret : returnValue { w with seq := sq } = returnValue w := rfl
    rw [hret]
    cases returnValue w <;> rfl
  | cons i k ih =>
    cases i with
    | setBaud | txReset | rx | delay => rfl
    | slots =>
      simp only [settle]
      split
      · rfl
      · split
        · split <;> rfl
        · exact ih ..
    | presence => exact andThen_withSeq (presenceStmt_withSeq ..) (ih none)
    | load x => exact ih none (loadByte x w)
    | command d => exact ih (some d) (loadByte (dsCmdByte d) w)
    | store => exact andThen_withSeq (storeStmt_withSeq ..) (ih none)
    | unload => exact andThen_withSeq (unloadStmt_withSeq ..) (ih none)
    | idxZero => exact ih none { w with idx := some 0 }
    | readBytes =>
      simp only [settle]
      split
      · rfl
      · split
        · rfl
        · exact ih ..
    | storeByte => exact andThen_withSeq (storeByteStmt_withSeq ..) (ih none)
    | verdict => exact andThen_withSeq (verdictStmt_withSeq ..) (ih none)

/-! ### Stretches of a run -/

section Runs

variable {s : State} {m n : Nat} {k : List Stmt} {w : OwAgent} {rx rx' : List RxItem} {tx tx' : List Bool}

/-- `n` steps from `s` bring the procedure, with the pure statements then at hand, to its rest `k` and the agent to `w` (but for its
place in `OW.SEQ`), with `rx` and `tx` still listed. -/
def Runs (n : Nat) (k : List Stmt) (w : OwAgent) (rx : List RxItem) (tx : List Bool) (s : State) : Prop :=
  ∃ k' r v a, owSteps n s = completePrim k' r v (owInputs rx tx { s with ow := a }) ∧
    settle r none k' v = settle r none k { w with seq := v.seq }

/-- Pure statements that do not read the readback belong to the stretch before them. -/
theorem Runs.settled {k' : List Stmt} {w' : OwAgent} (h : Runs n k w rx tx s)
    (hs : ∀ r sq, settle r none k { w with seq := sq } = settle r none k' { w' with seq := sq }) : Runs n k' w' rx tx s := by
  obtain ⟨l, r, v, a, hsteps, hsettle⟩ := h
  exact ⟨l, r, v, a, hsteps, hsettle.trans (hs r v.seq)⟩

/-- A stretch behind other steps. -/
theorem Runs.after {a : OwAgent} (hm : owSteps m s = .next (owInputs rx' tx' { s with ow := a }))
    (hn : Runs n k w rx tx (owInputs rx' tx' { s with ow := a })) : Runs (m + n) k w rx tx s := by
  obtain ⟨l, r, v, a', hsteps, hsettle⟩ := hn
  exact ⟨l, r, v, a', (owSteps_add hm).trans hsteps, hsettle⟩

/-- Where a stretch ends before a primitive, the agent stands there with its place in `OW.SEQ`. -/
theorem Runs.prim {p : Prim} {k' : List Stmt} {w' : OwAgent} {c : Option DsCmd} (h : Runs n k w rx tx s)
    (hp : ∀ r, settle r none k w = .prim p k' w' c) :
    ∃ (q : Seq) (v : OwAgent), owSteps n s = .next (owInputs rx tx { s with ow := { v with seq := some q } }) ∧
      settle q.r none q.todo { v with seq := some q } = .prim p k' { w' with seq := some q } c := by
  obtain ⟨l, r, v, a, hsteps, hsettle⟩ := h
  have hplace (sq : Option Seq) : settle r none l { v with seq := sq } = .prim p k' { w' with seq := sq } c := by
    rw [settle_withSeq, hsettle, settle_withSeq, hp]; rfl
  exact ⟨⟨l, r⟩, v, hsteps.trans (completePrim_prim (hplace v.seq)), hplace _⟩

/-- Where a stretch ends the procedure, the operation returns. -/
theorem Runs.done {op : OwOp} {v : HostValue} (h : Runs n [] w rx tx s) (hv : returnValue w = .ok (op, v)) :
    owSteps n s = .next { owInputs rx tx s with
      ow := { w with owst := .idle, op := none, seq := none, trace := w.trace ++ [.ret v] }
      host := s.host ++ [.returned op v] } := by
  obtain ⟨l, r, u, a, hsteps, hsettle⟩ := h
  rw [hsteps, completePrim_done _ (hsettle.trans (settle_nil hv))]
  rfl

/-- A byte whose first slot is next is a stretch of sixteen steps (43_onewire.md R303). -/
theorem Runs.byte {x : Byte} {rs : Fin 8 → Byte} {k' : List Stmt} {c : Option DsCmd} (h : Runs n k w rx' tx' s)
    (hb : w.owst = .busy) (hr : w.baud = .b115200) (hrx : rx' = slotItems rs ++ rx) (htx : tx' = List.replicate 8 true ++ tx)
    (hp : ∀ r, settle r none k w =
      .prim (.txSlot (x.getLsbD 0)) (.rx :: .store :: .slots :: .unload :: k') (loadByte x w) c) :
    Runs (n + 16) k' (byteRead x rs w) rx tx s := by
  obtain ⟨q, v, hsteps, hsettle⟩ := h.prim hp
  obtain ⟨howst, -, -, hbaud, -⟩ := settle_frame hsettle
  have hslot : AtSlot x 0 0 (.unload :: k') { loadByte x w with seq := some q }
      (owInputs rx' tx' { s with ow := { v with seq := some q } }) :=
    ⟨howst.symm.trans hb, hbaud.symm.trans hr, ⟨q, c, rfl, hsettle⟩, rfl, rfl, rfl⟩
  obtain ⟨u, a, hbyte, hbehind⟩ := hslot.byte hrx htx
  exact .after hsteps ⟨_, _, u, a, hbyte, hbehind⟩

/-! ### Commands (R344) -/

theorem Runs.command {d : DsCmd} {rs : Fin 8 → Byte} (h : Runs n (commandProc d ++ k) w rx' tx' s) (hb : w.owst = .busy)
    (hr : w.baud = .b115200) (hrx : rx' = slotItems rs ++ rx) (htx : tx' = List.replicate 8 true ++ tx) :
    Runs (n + 16) k (byteRead (dsCmdByte d) rs w) rx tx s :=
  h.byte hb hr hrx htx fun _ => settle_command_slots ..

/-- The agent behind a reset (43_onewire.md R301). -/
def resetDone (r : Byte) (w : OwAgent) : OwAgent :=
  { w with baud := .b115200, pres := some (presence r), trace := w.trace ++ resetEvents r ++ absenceEvents r }

/-- The agent behind a reset, 0xCC and the byte of a command (44_ds18b20_crc8.md R344, R346). -/
def commanded (d : DsCmd) (r : Byte) (a b : Fin 8 → Byte) (w : OwAgent) : OwAgent :=
  byteRead (dsCmdByte d) b (byteRead (dsCmdByte .skipRom) a (resetDone r w))

/-- A reset at the head of the procedure is a stretch of four steps. -/
theorem runs_resetDone {r : Byte} {o : Option Byte} (hb : s.ow.owst = .busy) (hq : s.ow.seq = some ⟨resetProc ++ k, o⟩)
    (hrx : s.env.owRx = .byte r :: rx) (htx : s.env.owTx = true :: tx) : Runs 4 k (resetDone r s.ow) rx tx s := by
  obtain ⟨v, a, hsteps, hsettle⟩ := owSteps_resetProc hb hq hrx htx
  exact ⟨_, _, v, a, hsteps, hsettle⟩

/-- A reset, 0xCC and a command at the head of the procedure. -/
theorem runs_commanded {d : DsCmd} {r : Byte} {a b : Fin 8 → Byte} {o : Option Byte} (hb : s.ow.owst = .busy)
    (hq : s.ow.seq = some ⟨resetProc ++ commandProc .skipRom ++ commandProc d ++ k, o⟩)
    (hrx : s.env.owRx = .byte r :: slotItems a ++ slotItems b ++ rx) (htx : s.env.owTx = List.replicate 17 true ++ tx) :
    Runs 36 k (commanded d r a b s.ow) rx tx s := by
  rw [List.append_assoc] at hrx
  have hreset : Runs 4 (commandProc .skipRom ++ (commandProc d ++ k)) (resetDone r s.ow) (slotItems a ++ (slotItems b ++ rx))
      (List.replicate 16 true ++ tx) s := runs_resetDone hb hq hrx htx
  exact (hreset.command (tx := List.replicate 8 true ++ tx) hb rfl rfl rfl).command hb rfl rfl rfl

/-- The delay, with a further primitive behind it (R346). -/
theorem Runs.delay {ms : Nat} {b : Baud} (h : Runs n (.delay ms :: .setBaud b :: k) w rx tx s) (hb : w.owst = .busy) :
    ∃ o, owSteps (n + 1) s = .next (owInputs rx tx { s with
      ow := { w with trace := w.trace ++ [.delay ms], seq := some ⟨.setBaud b :: k, o⟩ } }) := by
  obtain ⟨q, v, hsteps, hsettle⟩ := h.prim fun _ => rfl
  obtain ⟨howst, -⟩ := settle_frame hsettle
  refine ⟨q.r, ?_⟩
  rw [owSteps_add hsteps, owSteps_one, owStep_prim (howst.symm.trans hb) rfl hsettle]
  exact completePrim_prim (k := .setBaud b :: k) (p := .setBaud b) rfl

/-! ### The scratchpad (R346) -/

/-- The agent behind byte `i` of the scratchpad. -/
def padByte (i : Nat) (rs : Fin 8 → Byte) (w : OwAgent) : OwAgent :=
  { byteRead 0xFF rs w with sp := w.sp.setIfInBounds i (some (byteOfSlots rs)), idx := some (i + 1) }

/-- The agent behind bytes of the scratchpad from byte `i` on. -/
def padRead : Nat → List (Fin 8 → Byte) → OwAgent → OwAgent
  | _, [], w => w
  | i, rs :: sps, w => padRead (i + 1) sps (padByte i rs w)

theorem padRead_cons (i : Nat) (rs : Fin 8 → Byte) (sps : List (Fin 8 → Byte)) (w : OwAgent) :
    padRead i (rs :: sps) w = { w with
      txb := none, rxb := none, bit := none, idx := some (i + (sps.length + 1))
      result := some (byteOfSlots ((rs :: sps).getLast (List.cons_ne_nil _ _)))
      sp := writeBytes w.sp i ((rs :: sps).map byteOfSlots)
      trace := w.trace ++ ((rs :: sps).map (slotEvents 0xFF)).flatten } := by
  induction sps generalizing i rs w with
  | nil => simp [padRead, padByte, byteRead, writeBytes]
  | cons rs' sps ih =>
    rw [padRead, ih]
    simp [padByte, byteRead, writeBytes, Nat.add_assoc, Nat.add_comm 1]

theorem Runs.readByte {i : Nat} {rs : Fin 8 → Byte} (h : Runs n (.readBytes :: k) w rx' tx' s) (hb : w.owst = .busy)
    (hr : w.baud = .b115200) (hi : w.idx = some i) (hlt : i < Config.spLen) (hrx : rx' = slotItems rs ++ rx)
    (htx : tx' = List.replicate 8 true ++ tx) : Runs (n + 16) (.readBytes :: k) (padByte i rs w) rx tx s :=
  (h.byte (x := 0xFF) hb hr hrx htx fun _ => settle_readBytes_lt hi hlt).settled fun _ _ => settle_storeByte rfl hi hlt

/-- The bytes of the scratchpad, sixteen steps for each. -/
theorem Runs.readBytes {i : Nat} {sps : List (Fin 8 → Byte)} (h : Runs n (.readBytes :: k) w rx' tx' s) (hb : w.owst = .busy)
    (hr : w.baud = .b115200) (hi : w.idx = some i) (hlen : i + sps.length ≤ Config.spLen)
    (hrx : rx' = (sps.map slotItems).flatten ++ rx) (htx : tx' = List.replicate (8 * sps.length) true ++ tx) :
    Runs (n + 16 * sps.length) (.readBytes :: k) (padRead i sps w) rx tx s := by
  induction sps generalizing n i w rx' tx' with
  | nil => subst hrx htx; exact h
  | cons rs sps ih =>
    rw [List.length_cons] at hlen htx ⊢
    rw [List.map_cons, List.flatten_cons, List.append_assoc] at hrx
    rw [Nat.mul_succ, Nat.add_comm, List.replicate_add, List.append_assoc] at htx
    rw [Nat.mul_succ, Nat.add_comm (16 * _), ← Nat.add_assoc]
    exact ih (h.readByte hb hr hi (by omega) hrx htx) hb hr rfl (by omega) rfl rfl

/-- Nine bytes written from the start are the whole scratchpad. -/
theorem writeBytes_ofFn (buf : Vector (Option Byte) 9) (f : Fin 9 → Byte) :
    writeBytes buf 0 (List.ofFn f) = Vector.ofFn fun i => some (f i) := by
  refine Vector.toList_inj.1 ?_
  rw [writeBytes_toList _ _ _ (by rw [List.length_ofFn]), List.map_ofFn, Vector.toList_ofFn]
  simp [-List.ofFn_succ, Function.comp_def]

/-- The agent behind all nine bytes of the scratchpad. -/
def padDone (sp : Fin 9 → Fin 8 → Byte) (w : OwAgent) : OwAgent :=
  { w with
    txb := none, rxb := none, bit := none, idx := some 9, result := some (byteOfSlots (sp 8))
    sp := Vector.ofFn fun i => some (byteOfSlots (sp i))
    trace := w.trace ++ (List.ofFn fun i => slotEvents 0xFF (sp i)).flatten }

theorem padRead_ofFn (sp : Fin 9 → Fin 8 → Byte) (w : OwAgent) : padRead 0 (List.ofFn sp) w = padDone sp w := by
  rw [padDone, ← writeBytes_ofFn w.sp]
  exact padRead_cons 0 (sp 0) (List.ofFn fun i : Fin 8 => sp i.succ) w

/-- The loop over the scratchpad. -/
theorem Runs.scratchpad {sp : Fin 9 → Fin 8 → Byte} (h : Runs n (.idxZero :: .readBytes :: k) w rx' tx' s) (hb : w.owst = .busy)
    (hr : w.baud = .b115200) (hrx : rx' = (List.ofFn fun i => slotItems (sp i)).flatten ++ rx)
    (htx : tx' = List.replicate 72 true ++ tx) : Runs (n + 144) k (padDone sp w) rx tx s := by
  have hzero : Runs n (.readBytes :: k) { w with idx := some 0 } rx' tx' s := h.settled fun _ _ => settle_idxZero ..
  have hread := hzero.readBytes (sps := List.ofFn sp) hb hr rfl (by simp [Config.spLen]) (by rw [List.map_ofFn]; exact hrx) htx
  rw [padRead_ofFn] at hread
  exact hread.settled fun _ _ => settle_readBytes_ge rfl (by decide)

/-! ### The verdict (R346) -/

/-- The agent behind the verdict over these bytes: the register, the result, and E07 when the register is not 0. -/
def verdictDone (bytes : List Byte) (w : OwAgent) : OwAgent :=
  { w with
    crc := some (crc8Check bytes), idx := none
    dsResult := some (if crc8Check bytes = 0 then .ok (dsDecode bytes) else .checksumError)
    trace := w.trace ++ if crc8Check bytes = 0 then [] else [.diag (.scratchpadCrc (crc8Check bytes))] }

theorem settle_verdict {r : Option Byte} {c : Option DsCmd} {bytes : List Byte}
    (h : readPrefix .dsSp w.sp Config.spLen = .ok bytes) :
    settle r c (.verdict :: k) w = settle r none k (verdictDone bytes w) := by
  simp only [settle, verdictStmt, h, verdictDone, bind, Except.bind]
  split
  · rw [List.append_nil]; rfl
  · rfl

theorem Runs.verdict {f : Fin 9 → Byte} (h : Runs n (.verdict :: k) w rx tx s) (hsp : w.sp = Vector.ofFn fun i => some (f i)) :
    Runs n k (verdictDone (List.ofFn f) w) rx tx s := by
  have hread : readPrefix .dsSp w.sp Config.spLen = .ok (List.ofFn f) := by
    rw [hsp, ← writeBytes_ofFn w.sp]
    exact readPrefix_writeBytes .dsSp w.sp (List.ofFn f) (by rw [List.length_ofFn])
  exact h.settled fun _ sq => settle_verdict (w := { w with seq := sq }) hread

/-! ### The whole measurement (R346) -/

/-- The agent behind the procedure: started, delayed, reset and commanded again, with the scratchpad read and its verdict. -/
def measured (r₁ r₂ : Byte) (a b c d : Fin 8 → Byte) (sp : Fin 9 → Fin 8 → Byte) (w : OwAgent) : OwAgent :=
  let v := commanded .convert r₁ a b w
  verdictDone (List.ofFn fun i => byteOfSlots (sp i))
    (padDone sp (commanded .readSp r₂ c d { v with trace := v.trace ++ [.delay Config.convDelayMs] }))

theorem runs_measured {r₁ r₂ : Byte} {a b c d : Fin 8 → Byte} {sp : Fin 9 → Fin 8 → Byte} {o : Option Byte}
    (hb : s.ow.owst = .busy) (hq : s.ow.seq = some ⟨rawTempProc, o⟩)
    (hrx : s.env.owRx = .byte r₁ :: slotItems a ++ slotItems b ++ (.byte r₂ :: slotItems c ++ slotItems d ++
      ((List.ofFn fun i => slotItems (sp i)).flatten ++ rx)))
    (htx : s.env.owTx = List.replicate 106 true ++ tx) : Runs 217 [] (measured r₁ r₂ a b c d sp s.ow) rx tx s := by
  have hstart := runs_commanded (tx := List.replicate 89 true ++ tx) hb hq hrx htx
  obtain ⟨o', hdelay⟩ := hstart.delay hb
  have hcommands := Runs.after hdelay (runs_commanded (d := .readSp)
    (k := [.idxZero, .readBytes, .verdict]) (tx := List.replicate 72 true ++ tx) hb rfl rfl rfl)
  exact (hcommands.scratchpad hb rfl rfl rfl).verdict rfl

end Runs

/-! ### The obligations -/

/-- Settles O26: a reset, 0xCC and 0x44, which end the procedure. -/
theorem conversionStarts : Obligations.ConversionStarts := by
  unfold Obligations.ConversionStarts
  intro s r a b rx tx hi hrx htx
  have hruns := runs_commanded (d := .convert) (k := [])
    (s := { s with ow := { s.ow with op := some .start, seq := some ⟨startProc, none⟩, owst := .busy } }) rfl rfl hrx htx
  exact ⟨_, acceptOw_idle .start startProc hi, hruns.done (op := .start) rfl⟩

/-- Settles O27: the stretches of the procedure, the last of which ends with the verdict and so with the procedure. -/
theorem temperatureMeasured : Obligations.TemperatureMeasured := by
  unfold Obligations.TemperatureMeasured
  intro s r₁ r₂ a b c d sp rx tx hi hrx htx bytes result verdictEvents
  have hruns := runs_measured (r₁ := r₁) (r₂ := r₂) (a := a) (b := b) (c := c) (d := d) (sp := sp) (rx := rx)
    (s := { s with ow := { s.ow with op := some .rawTemp, seq := some ⟨rawTempProc, none⟩, owst := .busy } }) rfl rfl
    (by simp only [hrx, List.append_assoc, List.cons_append]) htx
  exact ⟨_, acceptOw_idle .rawTemp rawTempProc hi, hruns.done (op := .rawTemp) rfl⟩

end Sys2Proof.Machine
end

section
/-! The refusals of the host port, in their order (60_exceptions.md R406, D36). Settles O5. -/

namespace Sys2Proof.Machine

section Refusals

variable {sel : Byte} {args : List Byte} {i : Instr} {s : State}

/-! ### What the decoder makes of a selector (30_encoding.md R111, R113) -/

/-- The selectors of the table (30_encoding.md R111). -/
def hostSelectors : List Byte := [0x01, 0x02, 0x03, 0x04, 0x05, 0x06, 0x08, 0x09, 0x0A, 0x10, 0x12, 0x13, 0x14, 0x20, 0x21]

/-- The selectors of the OW agent's operations (30_encoding.md R111). -/
def owSelectors : List Byte := [0x10, 0x12, 0x13, 0x14, 0x20, 0x21]

theorem selector_of_encode (h : encode i = .host sel args) : sel ∈ hostSelectors := by
  cases i with
  | pidParity | pidEncode | pidValidate | csumAdd | csumGen | csumCheck | crc8Update | crc8Check | dsDecode
  | owReset | owWrb | owRb | owWb | dsStart | dsRawTemp => cases h; decide
  | _ => cases h

theorem typedRequest_eq_error {e : DecodeError} (h : typedRequest sel i = .error e) : e = .badOperand sel := by
  unfold typedRequest at h
  split at h <;> cases h
  rfl

/-- The decoder rejects for the selector if it is reserved, and for the arguments if it is not: X01 comes before X03. -/
theorem decodeHost_eq_error {e : DecodeError} (h : decodeHost sel args = .error e) :
    (sel ∉ hostSelectors ∧ e = .unknownSelector sel) ∨ (sel ∈ hostSelectors ∧ e = .badOperand sel) := by
  unfold decodeHost at h
  split at h
  case h_16 =>
    cases h
    refine .inl ⟨?_, rfl⟩
    simp only [hostSelectors, List.mem_cons, List.not_mem_nil, or_false, not_or, ← BitVec.toNat_inj]
    and_intros <;> assumption
  all_goals
    rename_i hn
    have hsel : sel = BitVec.ofNat 8 sel.toNat := by simp
    rw [hn] at hsel
    subst hsel
    dsimp only at h
    refine .inr ⟨by decide, ?_⟩
  case h_8 | h_9 => exact typedRequest_eq_error h
  all_goals
    split at h
    · exact typedRequest_eq_error h
    · cases h; rfl

/-! ### The request's turn -/

theorem hostTurn_of_reserved (h : sel ∉ hostSelectors) : hostTurn sel args s = refuse .unknownSelector sel s := by
  cases hd : decodeHost sel args with
  | ok i => exact absurd (selector_of_encode (decodeHost_eq_ok hd).2) h
  | error e =>
    obtain ⟨-, rfl⟩ | ⟨hmem, -⟩ := decodeHost_eq_error hd
    · simp [hostTurn, decode, hd]
    · exact absurd hmem h

theorem hostTurn_of_bad_operand (hsel : sel ∈ hostSelectors) (h : ∀ i : Instr, i.wf = true → encode i ≠ .host sel args) :
    hostTurn sel args s = refuse .badOperand sel s := by
  cases hd : decodeHost sel args with
  | ok i =>
    obtain ⟨hwf, he⟩ := decodeHost_eq_ok hd
    exact absurd he (h i hwf)
  | error e =>
    obtain ⟨hmem, -⟩ | ⟨-, rfl⟩ := decodeHost_eq_error hd
    · exact absurd hsel hmem
    · simp [hostTurn, decode, hd]

/-- A well-typed request runs the instruction it encodes. -/
theorem hostTurn_of_encode (hwf : i.wf = true) (he : encode i = .host sel args) : hostTurn sel args s = exec i s := by
  have hd : decode (.host sel args) = .ok i := he ▸ decodeEncodeRoundTrip i hwf
  simp [hostTurn, hd]

/-- An operation requested of an agent that is not IDLE is refused by its selector (60_exceptions.md R406). -/
theorem exec_operation_not_idle (hsel : sel ∈ owSelectors) (he : encode i = .host sel args) (h : s.ow.owst ≠ .idle) :
    exec i s = refuse .busy sel s := by
  cases i with
  | owReset | owWrb | owRb | owWb | dsStart | dsRawTemp => cases he; exact acceptOw_not_idle _ _ h
  | pidParity | pidEncode | pidValidate | csumAdd | csumGen | csumCheck | crc8Update | crc8Check | dsDecode =>
    cases he; exact absurd hsel (by decide)
  | _ => cases he

end Refusals

/-! ### The obligation -/

/-- Settles O5: a reserved selector is rejected for itself, one of the table for its arguments alone, and what is decoded is run. -/
theorem refusalsInOrder : Obligations.RefusalsInOrder := by
  unfold Obligations.RefusalsInOrder
  intro s sel args ms hm
  rw [step_of_moves hm]
  refine ⟨fun hsel => ?reserved, fun hsel hbad => ?badOperand, fun hsel hgood hbusy => ?busy⟩
  case reserved => exact hostTurn_of_reserved hsel
  case badOperand => exact hostTurn_of_bad_operand hsel hbad
  case busy =>
    obtain ⟨i, hwf, he⟩ := hgood
    exact (hostTurn_of_encode hwf he).trans (exec_operation_not_idle hsel he hbusy)

end Sys2Proof.Machine
end

section
/-! A FAULTED agent over each move: only a reset changes it (60_exceptions.md R404, R410). Settles O58. -/

namespace Sys2Proof.Machine

section Faulted

variable {s t : State} {m : Move}

/-! ### The step as a move -/

/-- A step makes the listed move, or an agent's turn where none is listed; before it, only the inputs change (log entry 9). -/
theorem step_eq_runMove (s : State) : ∃ m e, step s = runMove m { s with env := e } ∧
    (s.env.moves.head? = some m ∨ m = .lin ∨ m = .ow) := by
  cases hms : s.env.moves with
  | nil =>
    rw [step_of_no_moves hms]
    cases hturn : Config.linMoves s.env.turnDraws with
    | true => exact ⟨.lin, _, by simp only [freeTurn, hturn, if_true]; rfl, .inr (.inl rfl)⟩
    | false => exact ⟨.ow, _, by simp only [freeTurn, hturn]; rfl, .inr (.inr rfl)⟩
  | cons m ms => exact ⟨m, _, step_of_moves hms, .inl rfl⟩

/-! ### The LIN agent -/

theorem linTurn_faulted (h : s.lin.lst = .faulted) : linTurn s = .next s := linTurn_of_hold (linFetch_faulted h)

/-- A byte that comes to a FAULTED engine joins the waiting bytes (log entry 20). -/
theorem linByteTurn_faulted (b : Byte) (h : s.lin.lst = .faulted) : linByteTurn b s = .next (pushLinRx (.byte b) s) := by
  rw [linByteTurn_eq_deliver]
  exact deliver_not_held b (by simp [linHolds, h, Lst.reads])

theorem runMove_lin_of_faulted (hl : s.lin.lst = .faulted) (hm : m ≠ .restartLin) (hm' : m ≠ .resetBlock)
    (h : runMove m s = .next t) : t.lin = s.lin := by
  cases m with
  | lin => cases (linTurn_faulted hl).symm.trans h; rfl
  | linByte b => cases (linByteTurn_faulted b hl).symm.trans h; rfl
  | ow => exact owTurn_lin h
  | host => exact hostTurn_lin h
  | owByte | owFail => exact (deliverOw_frame h).1
  | linFail | restartOw => cases h; rfl
  | restartLin => exact absurd rfl hm
  | resetBlock => exact absurd rfl hm'

/-! ### The OW agent -/

theorem owTurn_faulted (h : s.ow.owst = .faulted) : owTurn s = .next s := (owTurn_eq_owStep s).trans (owStep_faulted h)

/-- A FAULTED agent holds on no `OwRx`, so no readback comes to it (60_exceptions.md R418). -/
theorem deliverOw_faulted (i : RxItem) (h : s.ow.owst = .faulted) : deliverOw i s = .next s := by
  simp [deliverOw, owHolds, owPending_eq_none_of_not_busy, h]

/-- The LIN agent's turn leaves the OW agent alone (20_memory.md R82). -/
theorem linTurn_ow (h : linTurn s = .next t) : t.ow = s.ow := by
  rw [linTurn_onLinSide.eq_join h, State.join_ow]

theorem linByteTurn_ow {b : Byte} (h : linByteTurn b s = .next t) : t.ow = s.ow :=
  (deliver_frame ((linByteTurn_eq_deliver b s).symm.trans h)).1

/-- A host request changes the OW agent only if it is IDLE (30_encoding.md R110). -/
theorem hostTurn_ow_of_not_idle {sel : Byte} {args : List Byte} (hidle : s.ow.owst ≠ .idle)
    (h : hostTurn sel args s = .next t) : t.ow = s.ow := by
  unfold hostTurn at h
  split at h
  · next i hd =>
    obtain ⟨-, hi⟩ := decodedHasItsTypes _ i hd
    obtain ⟨u, hu, -, -, -, ⟨how, -⟩ | ⟨hidle', -⟩⟩ := hostRowsFrame i s hi
    · cases hu.symm.trans h
      exact how
    · exact absurd hidle' hidle
  all_goals cases h; rfl

theorem runMove_ow_of_faulted (ho : s.ow.owst = .faulted) (hm : m ≠ .restartOw) (hm' : m ≠ .resetBlock)
    (h : runMove m s = .next t) : t.ow = s.ow := by
  cases m with
  | lin => exact linTurn_ow h
  | linByte => exact linByteTurn_ow h
  | ow => cases (owTurn_faulted ho).symm.trans h; rfl
  | host => exact hostTurn_ow_of_not_idle (by simp [ho]) h
  | owByte | owFail => cases (deliverOw_faulted _ ho).symm.trans h; rfl
  | linFail | restartLin => cases h; rfl
  | restartOw => exact absurd rfl hm
  | resetBlock => exact absurd rfl hm'

end Faulted

/-! ### The obligation -/

/-- Settles O58: the step is a move, and no move but the resets changes a FAULTED agent. -/
theorem faultsAreSticky : Obligations.FaultsAreSticky := by
  unfold Obligations.FaultsAreSticky
  intro s t hstep
  obtain ⟨m, e, hrun, hm⟩ := step_eq_runMove s
  rw [hrun] at hstep
  have hne : ∀ r, r ≠ .lin → r ≠ .ow → s.env.moves.head? ≠ some r → m ≠ r := by
    rintro r hlin how hr rfl
    simp [hlin, how, hr] at hm
  refine ⟨fun hl hlin hblock => ?lin, fun ho how hblock => ?ow⟩
  case lin =>
    exact runMove_lin_of_faulted (s := { s with env := e }) hl (hne _ nofun nofun hlin) (hne _ nofun nofun hblock) hstep
  case ow =>
    exact runMove_ow_of_faulted (s := { s with env := e }) ho (hne _ nofun nofun how) (hne _ nofun nofun hblock) hstep

end Sys2Proof.Machine
end

section
/-! The machine never stops: in a state of the invariant each agent's step, and so each move, answers a next state
(70_reset_and_hazards.md R510); and what the resets write (R500 to R502). Settles O57 and O50. -/

namespace Sys2Proof.Machine

section Answers

variable {s : State}

/-! ### The LIN agent -/

/-- The handler's answers dispatch a PID whatever they are: outside R231's bounds they raise F01, which is a next state. -/
theorem dispatchPid_answers (b : Byte) (fid : Fid) (s : State) : ∃ t, dispatchPid b fid s = .next t := by
  unfold dispatchPid
  split
  · split
    · exact ⟨_, raiseLin_eq ..⟩
    · exact ⟨_, rfl⟩
  · split
    · split
      · exact ⟨_, raiseLin_eq ..⟩
      · exact ⟨_, rfl⟩
    · exact ⟨_, rfl⟩

theorem execEngPidOk_answers {b : Byte} (hl : s.lin.lst = .readPid) (hb : (pidValidate b).isSome = true) :
    ∃ t, execEngPidOk b s = .next t := by
  obtain ⟨fid, hfid⟩ := Option.isSome_iff_exists.1 hb
  simpa [execEngPidOk, hl, hfid] using dispatchPid_answers b fid s

/-- The response of the invariant is sent or its write fails (42_lin_engine.md R239, R245). -/
theorem execEngRespond_answers (h : s.lin.ok = true) (hl : s.lin.lst = .respond) : ∃ t, execEngRespond s = .next t := by
  obtain ⟨frame, hframe⟩ := LinAgent.responseFrame_of_ok h hl
  cases hd : drawLinTx s.env with
  | mk completes e =>
    cases completes with
    | true => exact ⟨_, execEngRespond_sent hl hframe hd⟩
    | false => exact ⟨_, execEngRespond_failed hl hframe hd⟩

theorem execEngDrop_answers (h : s.lin.ok = true) (hl : s.lin.lst = .drop) : ∃ t, execEngDrop s = .next t := by
  obtain ⟨-, -, ⟨pid, hpid⟩, -⟩ := (LinAgent.ok_drop_iff hl).1 h
  exact ⟨_, execEngDrop_selected hl hpid⟩

/-- The invariant keeps the position of an awaited data byte inside the buffer (10_state.md R38). -/
theorem LinAgent.lt_of_awaitsData {l : LinAgent} {cnt : Nat} (h : l.ok = true) (hl : l.lst = .recvCmd)
    (hp : cmdPhase l = .ok (.data cnt)) : cnt < 8 := by
  obtain ⟨-, -, -, -, len, hlen, -, -, -, hmax, -⟩ := (ok_recvCmd_iff hl).1 h
  obtain ⟨-, len', hlen', hlt⟩ := cmdPhase_eq_data hp
  obtain rfl := Option.some.inj (hlen.symm.trans hlen')
  omega

/-- Every byte selects a transition that goes through (30_encoding.md R103). -/
theorem linTransition_answers (b : Byte) (h : s.lin.ok = true) : ∃ t, linTransition b s = .next t := by
  cases hl : s.lin.lst with
  | scanBreak =>
    by_cases hb : b = Config.linBreak
    · exact ⟨_, hb ▸ linTransition_break hl⟩
    · simpa [linTransition, hl, hb] using ⟨_, execEngBreakSkip_selected hl hb⟩
  | scanSync =>
    by_cases hb : b = Config.linSync
    · exact ⟨_, hb ▸ linTransition_sync hl⟩
    · simpa [linTransition, hl, hb] using ⟨_, execEngSyncBad_selected hl hb⟩
  | readPid =>
    cases hb : pidValidate b with
    | some fid =>
      have hvalid : (pidValidate b).isSome = true := by rw [hb]; rfl
      rw [linTransition_pid hl hvalid]
      exact execEngPidOk_answers hl hvalid
    | none => simpa [linTransition, hl, hb] using ⟨_, execEngPidBad_selected hl hb⟩
  | recvCmd =>
    obtain ⟨phase, hp⟩ := LinAgent.cmdPhase_of_ok h hl
    cases phase with
    | data cnt => exact ⟨_, linTransition_data hl hp (LinAgent.lt_of_awaitsData h hl hp)⟩
    | check pid d => exact ⟨_, linTransition_checksum hl hp⟩
  | respond | drop | faulted => exact ⟨s, by simp [linTransition, hl]⟩

theorem deliver_answers (b : Byte) (h : s.lin.ok = true) : ∃ t, deliver b s = .next t := by
  cases hold : linHolds s with
  | true => rw [deliver_held b hold]; exact linTransition_answers b h
  | false => exact ⟨_, deliver_not_held b hold⟩

theorem linTurn_answers (h : s.lin.ok = true) : ∃ t, linTurn s = .next t := by
  cases hl : s.lin.lst with
  | scanBreak | scanSync | readPid | recvCmd =>
    have hreads : s.lin.lst.reads = true := by rw [hl]; rfl
    cases hrx : s.env.linRx with
    | nil => exact ⟨s, linTurn_of_hold (linFetch_of_linHolds (linHolds_iff.2 ⟨hreads, hrx⟩))⟩
    | cons i rest =>
      cases i with
      | byte b =>
        rw [linTurn_of_read hreads hrx]
        exact linTransition_answers (s := linInput rest s) b h
      | fail => exact ⟨_, linTurn_of_fail hreads hrx⟩
  | respond =>
    rw [linTurn_respond hl]
    exact execEngRespond_answers h hl
  | drop =>
    rw [linTurn_drop hl]
    exact execEngDrop_answers h hl
  | faulted => exact ⟨s, linTurn_faulted hl⟩

/-! ### The OW agent -/

variable {o : OwOp} {r : Option Byte} {k : List Stmt} {w : OwAgent}

/-- The pure statements behind a primitive do not stop while the procedure is running. -/
theorem completePrim_answers (s : State) (hw : Running o r k w) : ∃ t, completePrim k r w s = .next t := by
  have hsound := settle_sound (c := none) hw
  cases hd : settle r none k w with
  | prim => exact ⟨_, completePrim_prim hd⟩
  | done => exact ⟨_, completePrim_done s hd⟩
  | stop st => exact (hd ▸ hsound : Settled.Sound o r (.stop st)).elim

/-- A write completes, or fails with F03 (43_onewire.md R311). -/
theorem transmit_answers (c : Byte) (s : State) (hw : Running o r k w) : ∃ t, transmit c k r w s = .next t := by
  unfold transmit
  split
  · exact completePrim_answers _ (hw.aside ..)
  · exact ⟨_, rfl⟩

theorem receive_answers (s : State) (hw : ∀ b, Running o (some b) k w) : ∃ t, receive k w s = .next t := by
  unfold receive
  split
  · exact ⟨s, rfl⟩
  · exact ⟨_, rfl⟩
  · next b _ _ => exact completePrim_answers _ ((hw b).aside ..)

theorem runPrim_answers {p : Prim} {c : Option DsCmd} (s : State) (hw : (Settled.prim p k w c).Sound o r) :
    ∃ t, runPrim p k r w s = .next t := by
  obtain ⟨hkeep, hrx⟩ := hw
  cases p with
  | setBaud b => exact completePrim_answers s ((hkeep (by simp)).aside ..)
  | txReset => exact transmit_answers _ s (hkeep (by simp))
  | rx => exact receive_answers s hrx
  | delay ms => exact completePrim_answers s ((hkeep (by simp)).aside ..)
  | txSlot bit =>
    simp only [runPrim]
    split
    · exact transmit_answers _ s (hkeep (by simp))
    · exact ⟨_, rfl⟩

/-- The procedure of a BUSY agent leads to a primitive or to its end, and never to a stop. -/
theorem owStep_answers (h : s.ow.ok = true) : ∃ t, owStep s = .next t := by
  cases hb : s.ow.owst with
  | idle => exact ⟨s, owStep_idle hb⟩
  | faulted => exact ⟨s, owStep_faulted hb⟩
  | busy =>
    obtain ⟨q, hq, o, hw⟩ := (OwAgent.ok_busy_iff hb).1 h
    have hsound := settle_sound (c := none) hw
    cases hd : settle q.r none q.todo s.ow with
    | prim p k w c =>
      rw [owStep_prim hb hq hd]
      exact runPrim_answers s (hd ▸ hsound)
    | done op v w => exact ⟨finishOw op v w s, by simp [owStep, hb, hq, hd]⟩
    | stop st => exact (hd ▸ hsound : Settled.Sound o q.r (.stop st)).elim

theorem owTurn_answers (h : s.ow.ok = true) : ∃ t, owTurn s = .next t := by
  rw [owTurn_eq_owStep]
  exact owStep_answers h

theorem deliverOw_answers (i : RxItem) (h : s.ow.ok = true) : ∃ t, deliverOw i s = .next t := by
  cases hold : owHolds s with
  | true => rw [deliverOw_held hold]; exact owStep_answers h
  | false => exact ⟨s, deliverOw_not_held hold⟩

/-! ### The host, and the moves -/

/-- A request is run, or refused by its code (60_exceptions.md R406). -/
theorem hostTurn_answers (sel : Byte) (args : List Byte) (s : State) : ∃ t, hostTurn sel args s = .next t := by
  unfold hostTurn
  split
  · next i hd =>
    obtain ⟨-, hi⟩ := decodedHasItsTypes _ i hd
    obtain ⟨t, ht, -⟩ := hostRowsFrame i s hi
    exact ⟨t, ht⟩
  all_goals exact ⟨_, rfl⟩

theorem runMove_answers (m : Move) (h : s.Inv) : ∃ t, runMove m s = .next t := by
  obtain ⟨hlin, how⟩ := h
  cases m with
  | lin => exact linTurn_answers hlin
  | ow => exact owTurn_answers how
  | host sel args => exact hostTurn_answers sel args s
  | linByte b =>
    simp only [runMove, linByteTurn_eq_deliver]
    exact deliver_answers b hlin
  | owByte | owFail => exact deliverOw_answers _ how
  | linFail | restartLin | restartOw | resetBlock => exact ⟨_, rfl⟩

end Answers

/-! ### The obligations -/

/-- Settles O57: the step is a move, and the inputs that change before it are no part of the invariant. -/
theorem stepAlwaysAnswers : Obligations.StepAlwaysAnswers := by
  unfold Obligations.StepAlwaysAnswers
  intro s h
  obtain ⟨m, e, hrun, -⟩ := step_eq_runMove s
  rw [hrun]
  exact runMove_answers (s := { s with env := e }) m h

/-- Settles O50: the listed move is made, and a reset's move is that reset, whatever the state. -/
theorem resetsOfTheAgents : Obligations.ResetsOfTheAgents := by
  unfold Obligations.ResetsOfTheAgents
  intro s ms
  refine ⟨fun hm => ?restartLin, fun hm => ?restartOw, fun hm => ?resetBlock⟩
  all_goals rw [step_of_moves hm]; rfl

end Sys2Proof.Machine
end
